-- ==== Sys2Proof/Word.lean ====
section
/-! DEFINITION. The bit-vector types of the block's registers, ports and command word. -/

namespace Sys2Proof

/-- A 32-bit bus address or data word (`00_scope.md` R7, R8). -/
abbrev Word := BitVec 32

/-- A 16-bit serial frame (`00_scope.md` R10). -/
abbrev Half := BitVec 16

/-- A 3-bit command opcode (`30_encoding.md` R81). -/
abbrev OpCode := BitVec 3

/-- The 67-bit command word `op, addr, data` of the one format CMD (`30_encoding.md` R81). -/
abbrev CmdWord := BitVec 67

/-- A cycle parameter: an integer from 1 to 2^32 − 1 (`00_scope.md` R11, R12, R15, R16; D24).
A count outside that range is no value of this type. -/
abbrev Limit := { n : Nat // 1 ≤ n ∧ n ≤ 4294967295 }

end Sys2Proof
end

