-- ==== Sys2Proof/Config.lean ====
section
/-! DEFINITION. What an implementation fixes, and the free values: the cycle parameters, the agents'
samples, and the open constants of the sequencing layer. -/

namespace Sys2Proof

/-- What the agents drive into the block at one edge (`00_scope.md` R6, R18; `10_state.md` R22).
The host's command on the ports is not here: it is the word of its program at its index
(`10_state.md` R21), shown on the ports when `present` holds. -/
structure Sample where
  /-- `sample(por)`: the host's power-on reset. -/
  por : Bool
  /-- The host chooses to present its next command at this edge (`70_reset_and_hazards.md` R211). -/
  present : Bool
  /-- `sample(wb_ack)`, from the DUT. -/
  wbAck : Bool
  /-- `sample(wb_dat_out)`, from the DUT. -/
  wbDatOut : Word
  /-- `sample(spi_miso)`, from the DUT. -/
  spiMiso : Bool
  deriving DecidableEq, Repr, Inhabited

/-- The cycle parameters (`00_scope.md` R11, R12, R15). They are arguments of the machine: State holds
them and no step writes them. -/
structure Params where
  /-- `RESET_ASSERT_CYCLES` (R11). -/
  resetAssert : Limit
  /-- `RESET_RELEASE_CYCLES` (R11). -/
  resetRelease : Limit
  /-- `SETTLE_CYCLES` (R12). -/
  settle : Limit
  /-- `ACK_TIMEOUT_CYCLES`, the `N` of `41_wishbone.md` (R15). -/
  ackTimeout : Limit
  deriving DecidableEq, Repr

/-- The pins of the array that carry the serial link, `SPI_PIN_MAP` (`00_scope.md` R17): four pin
numbers of an array of at most 64. -/
structure PinMap where
  csN  : Fin 64
  sclk : Fin 64
  mosi : Fin 64
  miso : Fin 64
  deriving DecidableEq, Repr, Inhabited

/-- The sequencing layer's constants that `00_scope.md` R17 leaves `OPEN` (D34, D35). The block never reads
them. The project range, open too (D34), has no field here: DESIGN CHOICE (log entry 17). -/
structure SeqParams where
  /-- `PSEL_ADDR`. -/
  pselAddr : Word
  /-- `OE_LO_ADDR`. -/
  oeLoAddr : Word
  /-- `OE_HI_ADDR`. -/
  oeHiAddr : Word
  /-- `NUM_PINS`, at most 64. -/
  numPins : Fin 65
  /-- `SPI_PIN_MAP`. -/
  spiPinMap : PinMap
  deriving DecidableEq, Repr, Inhabited

/-- FREE VALUE (log entry 2). What the agents drive at an edge, by the edge's number, where the list of
inputs in State says nothing: "a free draw per edge" (`00_scope.md` R6). -/
opaque Config.freeSample : Nat → Sample

/-- FREE VALUE (log entry 4). A number from which the open `ACK_TIMEOUT_CYCLES` is made. -/
opaque Config.ackTimeoutDraw : Word

/-- FREE VALUE (log entry 10). The sequencing layer's open constants. -/
opaque Config.seq : SeqParams

/-- `ACK_TIMEOUT_CYCLES` of this machine at reset: `OPEN` (`00_scope.md` R15), any legal count. -/
def Config.ackTimeoutCycles : Limit :=
  ⟨max 1 Config.ackTimeoutDraw.toNat, by omega, by have := Config.ackTimeoutDraw.isLt; omega⟩

/-- The parameters at reset: DOC's defaults 5, 5 and 7 (`00_scope.md` R11, R12) and the open `N`. -/
def Config.defaults : Params where
  resetAssert  := ⟨5, by decide⟩
  resetRelease := ⟨5, by decide⟩
  settle       := ⟨7, by decide⟩
  ackTimeout   := Config.ackTimeoutCycles

/-- `ACK_TIMEOUT_TIME` in nanoseconds: 100 µs (`00_scope.md` R13). -/
def Config.ackTimeoutTimeNs : Nat := 100000

/-- `ceil(ACK_TIMEOUT_TIME / CLK_PERIOD)`, both in one unit of time, the period positive
(`00_scope.md` R15). -/
def Config.timeoutCyclesOf (time period : Nat) : Nat := (time + period - 1) / period

/-- The simulated time of an edge count, in the unit of the period (`70_reset_and_hazards.md` R210). -/
def Config.timeOf (edges period : Nat) : Nat := edges * period

end Sys2Proof
end

