-- ==== Sys2Proof/Syntax.lean ====
section
/-! DEFINITION. The four commands, and the CMD format's three fields before the opcode is read. -/

namespace Sys2Proof

/-- The block's commands, one constructor per row of the opcode table, with the operands that
`30_encoding.md` R83 gives each; a field the command ignores is no operand. -/
inductive Instr where
  /-- RESET: no operand. -/
  | reset
  /-- WB_WRITE: the bus address and the write data. -/
  | wbWrite (addr data : Word)
  /-- WB_READ: the bus address. -/
  | wbRead (addr : Word)
  /-- SPI_EXCHANGE: the 16-bit value sent. -/
  | spiExchange (value : Half)
  deriving DecidableEq, Repr

/-- The fields of a command word as the command ports carry them (`30_encoding.md` R81):
`cmd_op`, `cmd_addr`, `cmd_data`. -/
structure Cmd where
  op   : OpCode
  addr : Word
  data : Word
  deriving DecidableEq, Repr

/-- What the decoder answers (`30_encoding.md` R85): a command, or `Reserved(op)` by name. -/
inductive Decoded where
  | instr (i : Instr)
  | reserved (op : OpCode)
  deriving DecidableEq, Repr

end Sys2Proof
end

