-- ==== Sys2Proof/Decode.lean ====
section
/-! DEFINITION. The decoder of the 67-bit command word, total, naming what it rejects, and the encoder
written from the same tables (`30_encoding.md` R81, R82, R83, R85). -/

namespace Sys2Proof

/-- `CMD[66:64]` (R81). -/
def fieldOp (w : CmdWord) : OpCode := w.extractLsb' 64 3

/-- `CMD[63:32]` (R81). -/
def fieldAddr (w : CmdWord) : Word := w.extractLsb' 32 32

/-- `CMD[31:0]` (R81). -/
def fieldData (w : CmdWord) : Word := w.extractLsb' 0 32

/-- The serial value `data[15:0]` of SPI_EXCHANGE (R83). -/
def fieldValue (data : Word) : Half := data.extractLsb' 0 16

/-- The opcode that R82 gives RESET. -/
def opReset : OpCode := 1#3

/-- The opcode that R82 gives WB_WRITE. -/
def opWbWrite : OpCode := 2#3

/-- The opcode that R82 gives WB_READ. -/
def opWbRead : OpCode := 3#3

/-- The opcode that R82 gives SPI_EXCHANGE. -/
def opSpiExchange : OpCode := 4#3

/-- The fields of a command word as they stand on the command ports (R81). -/
def cmdOfWord (w : CmdWord) : Cmd := ⟨fieldOp w, fieldAddr w, fieldData w⟩

/-- The command word of three fields (R81). -/
def wordOfCmd (c : Cmd) : CmdWord :=
  (c.op ++ (c.addr ++ c.data)).cast (show 3 + (32 + 32) = 67 from rfl)

/-- Dispatch on the opcode (R85); 000, 101, 110 and 111 are reserved (R86). -/
def decodeCmd (c : Cmd) : Decoded :=
  if c.op = opReset then .instr .reset
  else if c.op = opWbWrite then .instr (.wbWrite c.addr c.data)
  else if c.op = opWbRead then .instr (.wbRead c.addr)
  else if c.op = opSpiExchange then .instr (.spiExchange (fieldValue c.data))
  else .reserved c.op

/-- "The decoder is total: every 67-bit word decodes to exactly one of" the four commands or
`Reserved(op)` (R85). -/
def decode (w : CmdWord) : Decoded := decodeCmd (cmdOfWord w)

/-- A command's opcode (R82). -/
def opcodeOf : Instr → OpCode
  | .reset         => opReset
  | .wbWrite _ _   => opWbWrite
  | .wbRead _      => opWbRead
  | .spiExchange _ => opSpiExchange

/-- A command's fields, the ignored ones written as 0 (R83, R89). -/
def encodeCmd : Instr → Cmd
  | .reset             => ⟨opReset, 0, 0⟩
  | .wbWrite addr data => ⟨opWbWrite, addr, data⟩
  | .wbRead addr       => ⟨opWbRead, addr, 0⟩
  | .spiExchange value => ⟨opSpiExchange, 0, value.setWidth 32⟩

/-- A command's word, the ignored fields written as 0 (R89, R96). -/
def encode (i : Instr) : CmdWord := wordOfCmd (encodeCmd i)

/-- The bits of a command's word that mean something: its opcode and the fields it does not ignore
(R83); every other bit may hold any value (R87). -/
def usedBits : Instr → CmdWord
  | .reset         => wordOfCmd ⟨7#3, 0, 0⟩
  | .wbWrite _ _   => wordOfCmd ⟨7#3, 0xFFFFFFFF#32, 0xFFFFFFFF#32⟩
  | .wbRead _      => wordOfCmd ⟨7#3, 0xFFFFFFFF#32, 0⟩
  | .spiExchange _ => wordOfCmd ⟨7#3, 0, 0x0000FFFF#32⟩

/-- The decoder on a word numbered as the opcode table numbers it; the one format has 67 bits (R88), so a
number with a higher bit set is no command word. -/
def decodeTableWord (nbits w : Nat) : Option Instr :=
  if w % 2 ^ nbits < 2 ^ 67 then
    match decode (BitVec.ofNat 67 (w % 2 ^ nbits)) with
    | .instr i    => some i
    | .reserved _ => none
  else none

end Sys2Proof
end

