-- ==== Sys2Proof/Machine/State.lean ====
section
/-! DEFINITION. The block's registers (`10_state.md` R26 to R37), the run around them (the host's program
and index, the agents' coming samples, the transaction record), the reasons a step can stop, and the
state after reset. -/

namespace Sys2Proof.Machine

open Sys2Proof

/-- The control state `ctl`, with the codes of `10_state.md` R27. `reserved k` is code `10 + k`, which is
never held (R27) and has no step (`93_implementation_defined.md` I4). -/
inductive Ctl where
  | idle
  | requestAsserted
  | awaitAckRise
  | awaitAckFall
  | rstAssert
  | rstRelease
  | spiCsSetup
  | spiBitHigh
  | spiBitLow
  | spiTail
  | reserved (k : Fin 5)
  | halted
  deriving DecidableEq, Repr

/-- The error code `err_code` (`10_state.md` R34, `60_exceptions.md` R170). `reserved k` is code `4 + k`,
which is never written (R34) and has no step (`93_implementation_defined.md` I4). -/
inductive ErrCode where
  | none
  | protocolPrecondition
  | ackTimeout
  | ackNotReleased
  | reserved (k : Fin 4)
  deriving DecidableEq, Repr

/-- The bus output registers (`10_state.md` R23, R36). -/
structure BusOut where
  /-- `wb_stb`. -/
  stb : Bool
  /-- `wb_cyc`. -/
  cyc : Bool
  /-- `wb_we`. -/
  we : Bool
  /-- `wb_sel`. -/
  sel : BitVec 4
  /-- `wb_adr`. -/
  adr : Word
  /-- `wb_dat_in`, driven by the block. -/
  datIn : Word
  deriving DecidableEq, Repr

/-- The serial output registers (`10_state.md` R25, R36). -/
structure Link where
  /-- `spi_cs_n`, active low. -/
  csN : Bool
  /-- `spi_sclk`. -/
  sclk : Bool
  /-- `spi_mosi`. -/
  mosi : Bool
  deriving DecidableEq, Repr

/-- The error-context registers (`10_state.md` R34). -/
structure ErrCtx where
  /-- `err_code`. -/
  code : ErrCode
  /-- `err_op`. -/
  op : OpCode
  /-- `err_addr`. -/
  addr : Word
  /-- `err_elapsed`. -/
  elapsed : Word
  deriving DecidableEq, Repr

/-- The response registers (`10_state.md` R37). -/
structure Rsp where
  /-- `rsp_valid`. -/
  valid : Bool
  /-- `rsp_op`. -/
  op : OpCode
  /-- `rsp_data`. -/
  data : Word
  deriving DecidableEq, Repr

/-- Every register of the block (`10_state.md` R45). -/
structure Regs where
  /-- `ctl` (R26). -/
  ctl : Ctl
  /-- `cnt`, the phase counter (R28). -/
  cnt : Word
  /-- `bitcnt`, the frame bits not yet exchanged (R29). -/
  bitcnt : BitVec 5
  /-- `shreg`, the remaining shift value (R30). -/
  shreg : Half
  /-- `rxacc`, the received accumulator (R31). -/
  rxacc : Half
  /-- `rdata`, the word WB_READ captured (R32). -/
  rdata : Word
  /-- `txn_op` (R33). -/
  txnOp : OpCode
  /-- `txn_addr` (R33). -/
  txnAddr : Word
  /-- The error context (R34). -/
  err : ErrCtx
  /-- `reset_done` (R35). -/
  resetDone : Bool
  /-- The bus outputs (R36). -/
  bus : BusOut
  /-- `dut_rst` (R23, R36). -/
  dutRst : Bool
  /-- The serial outputs (R36). -/
  link : Link
  /-- The response (R37). -/
  rsp : Rsp
  deriving DecidableEq, Repr

/-- The command in progress, as the transaction record needs it (`20_memory.md` R78): bookkeeping that no
register's next value reads. -/
structure Flight where
  /-- The accept edge `a` (`30_encoding.md` R84). -/
  acceptEdge : Nat
  /-- The data operand: WB_WRITE's word, SPI_EXCHANGE's value zero-extended, else 0. -/
  operand : Word
  /-- The rise-wait length `k`, 0 until the rise (`41_wishbone.md` R128). -/
  riseLen : Nat
  deriving DecidableEq, Repr

/-- One entry of the transaction record (`20_memory.md` R78). -/
inductive Event where
  /-- A completed WB command: `(op, addr, wdata, rdata, a, k, j)`. -/
  | bus (op : OpCode) (addr wdata rdata : Word) (a k j : Nat)
  /-- A WB command that raised: `(op, addr, err_code, err_elapsed)`. -/
  | error (op : OpCode) (addr : Word) (code : ErrCode) (elapsed : Word)
  /-- A completed SPI_EXCHANGE: `(sent, received, a)`. -/
  | spi (sent received : Half) (a : Nat)
  /-- A completed RESET: `(a)`. -/
  | reset (a : Nat)
  deriving DecidableEq, Repr

/-- The machine: the block's registers and the run around it. -/
structure State where
  /-- The cycle parameters, arguments of the machine (`00_scope.md` R11, R12, R15). -/
  params : Params
  /-- The block's registers. -/
  regs : Regs
  /-- The number `e` of the coming edge (`00_scope.md` R18). -/
  edge : Nat
  /-- The host's program, a finite list of command words (`10_state.md` R21). -/
  program : List CmdWord
  /-- The host's command index (`10_state.md` R21). -/
  ci : Nat
  /-- What the agents drive at the coming edges, the next edge first; past its end every sample is
  the free value of the edge's number. -/
  inputs : List Sample
  /-- The command in progress, none when there is none (`70_reset_and_hazards.md` R193). -/
  flight : Option Flight
  /-- The transaction record, in acceptance order (`20_memory.md` R78). -/
  history : List Event
  /-- The responses in completion order, the result of a run (`70_reset_and_hazards.md` R213). -/
  responses : List (OpCode × Word)
  /-- The command index just after the accept edge of the command that completed last, 0 before any has: it
  equals `ci` exactly while the last accepted command has completed (`70_reset_and_hazards.md` R213; log
  entry 19). Bookkeeping that no register's next value reads. -/
  completed : Nat
  deriving DecidableEq, Repr

/-- Why the machine has no next state. -/
inductive Fault where
  /-- Raised by every edge without `por` whose `ctl` holds the reserved code `10 + k`: "stuck", no step
  (`93_implementation_defined.md` I4). Safe: no run reaches it. -/
  | reservedCtl (k : Fin 5)
  /-- Raised by every edge without `por` whose `err_code` holds the reserved value `4 + k`: "stuck", no
  step (`93_implementation_defined.md` I4). Safe: no run reaches it. -/
  | reservedErrCode (k : Fin 4)
  deriving DecidableEq, Repr

/-- Why a run has no meaning (`60_exceptions.md` R189). -/
inductive Refusal where
  /-- Raised by an arm of `exec` whose instruction has no meaning yet; no arm answers it. Safe. -/
  | notModelled (mnemonic : String)
  /-- Raised by WB_WRITE and WB_READ accepted with `reset_done = 0` (`40_clock_reset.md` R110,
  `93_implementation_defined.md` I1). Safe: a chip may go on. -/
  | transactionBeforeReset
  /-- Raised by accepting a command word with a reserved opcode (`30_encoding.md` R86,
  `93_implementation_defined.md` I2). Safe: a chip may go on. -/
  | reservedOpcode (op : OpCode)
  deriving DecidableEq, Repr

/-- The error context of POR (`10_state.md` R45). -/
def ErrCtx.por : ErrCtx := { code := .none, op := 0#3, addr := 0#32, elapsed := 0#32 }

/-- The bus outputs of POR (`10_state.md` R45, D15). -/
def BusOut.por : BusOut :=
  { stb := false, cyc := false, we := false, sel := 0#4, adr := 0#32, datIn := 0#32 }

/-- The serial outputs of POR: deselected, clock and data low (`10_state.md` R45, D15). -/
def Link.por : Link := { csN := true, sclk := false, mosi := false }

/-- The response registers of POR (`10_state.md` R45). -/
def Rsp.por : Rsp := { valid := false, op := 0#3, data := 0#32 }

/-- The POR column of `10_state.md` R45. -/
def Regs.por : Regs where
  ctl       := .idle
  cnt       := 0#32
  bitcnt    := 0#5
  shreg     := 0#16
  rxacc     := 0#16
  rdata     := 0#32
  txnOp     := 0#3
  txnAddr   := 0#32
  err       := ErrCtx.por
  resetDone := false
  bus       := BusOut.por
  dutRst    := false
  link      := Link.por
  rsp       := Rsp.por

/-- The machine right after reset: the state after edge 0, which the host makes a POR edge
(`70_reset_and_hazards.md` R191, R193, R195). No program is loaded and nothing is known of the agents'
coming samples (log entries 2 and 3). -/
def State.reset : State where
  params    := Config.defaults
  regs      := Regs.por
  edge      := 1
  program   := []
  ci        := 0
  inputs    := []
  flight    := none
  history   := []
  responses := []
  completed := 0

end Sys2Proof.Machine
end

