-- ==== Sys2Proof/Machine/Operands.lean ====
section
/-! DEFINITION. What a step reads: the sample of an edge, the command on the host's ports, and the values
the data operations of `20_memory.md` R79 take from them. -/

namespace Sys2Proof.Machine

open Sys2Proof

/-- `sample(sig)` at the edge `i` edges ahead (`00_scope.md` R18): what the agents were given to drive, else
a free draw for that edge's number (R6). -/
def State.sampleAt (s : State) (i : Nat) : Sample :=
  s.inputs[i]?.getD (Config.freeSample (s.edge + i))

/-- `sample(sig)` at the coming edge (`00_scope.md` R18). -/
def State.sample (s : State) : Sample := s.sampleAt 0

/-- The command word on the ports at the coming edge, none when `cmd_valid = 0`: the host presents the
command its index names, when it chooses to and one is left (`10_state.md` R21, `70_reset_and_hazards.md` R211). -/
def State.presented (s : State) : Option CmdWord :=
  if s.sample.present then s.program[s.ci]? else none

/-- `cmd_valid` at the coming edge (`10_state.md` R22). -/
def State.cmdValid (s : State) : Bool := s.presented.isSome

/-- `zext_16` of one sampled bit (`20_memory.md` R79). -/
def zext16 (b : Bool) : Half := (BitVec.ofBool b).setWidth 16

/-- `zext_32` of a 16-bit value (`20_memory.md` R79). -/
def zext32 (v : Half) : Word := v.setWidth 32

/-- The top bit `v[15]`, sent first (`20_memory.md` R61). -/
def topBit (v : Half) : Bool := v.getLsbD 15

/-- The received accumulator after one more bit: "received = (received << 1) | sampled_bit"
(`20_memory.md` R79, `42_serial.md` R154). -/
def shiftIn (acc : Half) (b : Bool) : Half := (acc <<< 1) ||| zext16 b

/-- The edges spent in the phase when this edge is counted in, `r.cnt + 1` (`20_memory.md` R79). -/
def State.phaseCount (s : State) : Word := s.regs.cnt + 1#32

/-- The comparison `r.cnt + 1 = limit` (`20_memory.md` R79), on the numbers: `cnt` never wraps (R79). -/
def State.atLimit (s : State) (limit : Limit) : Bool := s.regs.cnt.toNat + 1 == limit.val

end Sys2Proof.Machine
end

