-- ==== Sys2Proof/Machine/Flags.lean ====
section
/-! DEFINITION. The flags, the STATUS word and the output ports: functions of the registers only
(`10_state.md` R23, R38, R39, R40). -/

namespace Sys2Proof.Machine

open Sys2Proof

/-- The code of `ctl` (`10_state.md` R27). -/
def ctlCode : Ctl → BitVec 4
  | .idle            => 0#4
  | .requestAsserted => 1#4
  | .awaitAckRise    => 2#4
  | .awaitAckFall    => 3#4
  | .rstAssert       => 4#4
  | .rstRelease      => 5#4
  | .spiCsSetup      => 6#4
  | .spiBitHigh      => 7#4
  | .spiBitLow       => 8#4
  | .spiTail         => 9#4
  | .reserved k      => BitVec.ofNat 4 (10 + k.val)
  | .halted          => 15#4

/-- The code of `err_code` (`60_exceptions.md` R170). -/
def errNumber : ErrCode → BitVec 3
  | .none                 => 0#3
  | .protocolPrecondition => 1#3
  | .ackTimeout           => 2#3
  | .ackNotReleased       => 3#3
  | .reserved k           => BitVec.ofNat 3 (4 + k.val)

/-- `halted = (ctl = HALTED)` (`10_state.md` R38). -/
def Regs.halted (r : Regs) : Bool := r.ctl = .halted

/-- `busy = (ctl ∉ {IDLE, HALTED})` (`10_state.md` R38). -/
def Regs.busy (r : Regs) : Bool := !(r.ctl = .idle || r.ctl = .halted)

/-- `cmd_ready = (ctl = IDLE)` (`10_state.md` R40). -/
def Regs.cmdReady (r : Regs) : Bool := r.ctl = .idle

/-- The STATUS word, its fields from the top: reserved 0, BITCNT, ERR_OP, RESET_DONE, ERR_CODE, STATE
(`10_state.md` R39). -/
def Regs.status (r : Regs) : Word :=
  (0#16 ++ (r.bitcnt ++ (r.err.op ++ (BitVec.ofBool r.resetDone ++
    (errNumber r.err.code ++ ctlCode r.ctl))))).cast (show 16 + (5 + (3 + (1 + (3 + 4)))) = 32 from rfl)

/-- The block's output ports (`10_state.md` R23). -/
structure Outputs where
  bus        : BusOut
  dutRst     : Bool
  link       : Link
  cmdReady   : Bool
  busy       : Bool
  halted     : Bool
  rsp        : Rsp
  status     : Word
  errAddr    : Word
  errElapsed : Word
  deriving DecidableEq, Repr

/-- What the DUT and the host observe until the coming edge (`00_scope.md` R18, `10_state.md` R23). -/
def Regs.outputs (r : Regs) : Outputs where
  bus        := r.bus
  dutRst     := r.dutRst
  link       := r.link
  cmdReady   := r.cmdReady
  busy       := r.busy
  halted     := r.halted
  rsp        := r.rsp
  status     := r.status
  errAddr    := r.err.addr
  errElapsed := r.err.elapsed

end Sys2Proof.Machine
end

