-- ==== Sys2Proof/Machine/Ops.lean ====
section
/-! DEFINITION. The named operations a step is made of: the passing of an edge, POR, accepting a command,
taking an error, responding, and the writes that several rules share. -/

namespace Sys2Proof.Machine

open Sys2Proof

/-- What every edge does (`00_scope.md` R18): the edge is counted and its sample used up, and
"At every edge where `respond` is not called, `rsp_valid <- 0`" (`10_state.md` R37). -/
def State.tick (s : State) : State :=
  { s with
    edge   := s.edge + 1
    inputs := s.inputs.tail
    regs   := { s.regs with rsp := { s.regs.rsp with valid := false } } }

/-- POR: every register takes its POR value, and the command in progress is abandoned
(`10_state.md` R45, R46; `70_reset_and_hazards.md` R207). -/
def State.powerOn (s : State) : State := { s with regs := Regs.por, flight := none }

/-- The command index advances, as it does at every accept edge and at no other (`10_state.md` R21). -/
def State.advanceCi (s : State) : State := { s with ci := s.ci + 1 }

/-- A command accepted at edge `a` is now in progress, with its data operand kept for the record
(`30_encoding.md` R84, `20_memory.md` R78). -/
def State.launch (a : Nat) (operand : Word) (s : State) : State :=
  { s with flight := some { acceptEdge := a, operand := operand, riseLen := 0 } }

/-- The rise-wait length `k` is noted for the record (`20_memory.md` R78). -/
def State.noteRise (k : Nat) (s : State) : State :=
  { s with flight := s.flight.map fun f => { f with riseLen := k } }

/-- The command in progress is entered in the record and is no longer in progress
(`20_memory.md` R78). -/
def State.record (event : Flight → Event) (s : State) : State :=
  { s with history := s.history ++ (s.flight.map event).toList, flight := none }

/-- A failed WB command is entered in the record and is no longer in progress (`20_memory.md` R78). -/
def State.recordError (op : OpCode) (addr : Word) (e : ErrCode) (elapsed : Word) (s : State) : State :=
  { s with history := s.history ++ [.error op addr e elapsed], flight := none }

/-- Enter a phase: `ctl <- c` and `cnt <- 0` ("Every phase entry sets it to 0", `10_state.md` R28). -/
def State.enter (c : Ctl) (s : State) : State := { s with regs := { s.regs with ctl := c, cnt := 0#32 } }

/-- Stay in phase `c` one more edge: `ctl <- c` and `cnt <- k` (`10_state.md` R28). -/
def State.stay (c : Ctl) (k : Word) (s : State) : State :=
  { s with regs := { s.regs with ctl := c, cnt := k } }

/-- `respond(op, d)`: the response outputs for one cycle, the run's list of results, and the note that the last
accepted command has completed (`10_state.md` R37, `70_reset_and_hazards.md` R213). -/
def State.respond (op : OpCode) (data : Word) (s : State) : State :=
  { s with
    regs      := { s.regs with rsp := { valid := true, op := op, data := data } }
    responses := s.responses ++ [(op, data)]
    completed := s.ci }

/-- TAKING AN ERROR, `raise E(op, addr, elapsed)` (`60_exceptions.md` R172): the context is recorded and
the block halts; no output, `cnt` or `rdata` is assigned. POR is the only way back (R177). -/
def State.raise (e : ErrCode) (op : OpCode) (addr elapsed : Word) (s : State) : State :=
  ({ s with regs := { s.regs with
      ctl := .halted
      err := { code := e, op := op, addr := addr, elapsed := elapsed } } }).recordError op addr e elapsed

/-- The bus outputs idled: strobe, cycle, byte-select, data and address 0; write-enable is not assigned
(`10_state.md` R36, `41_wishbone.md` R126). -/
def BusOut.idled (b : BusOut) : BusOut :=
  { b with stb := false, cyc := false, sel := 0#4, adr := 0#32, datIn := 0#32 }

/-- `SEL_ALL` (`00_scope.md` R9). -/
def selAll : BitVec 4 := 0b1111#4

/-- The bus outputs driving a write request (`41_wishbone.md` R124). -/
def BusOut.driveWrite (addr data : Word) (b : BusOut) : BusOut :=
  { b with stb := true, cyc := true, sel := selAll, adr := addr, we := true, datIn := data }

/-- The bus outputs driving a read request; `wb_dat_in` is not assigned (`41_wishbone.md` R124). -/
def BusOut.driveRead (addr : Word) (b : BusOut) : BusOut :=
  { b with stb := true, cyc := true, sel := selAll, adr := addr, we := false }

/-- Idle the bus (`41_wishbone.md` R129, `40_clock_reset.md` R104). -/
def State.idleBus (s : State) : State := { s with regs := { s.regs with bus := s.regs.bus.idled } }

/-- `dut_rst <- v`. -/
def State.setDutRst (v : Bool) (s : State) : State := { s with regs := { s.regs with dutRst := v } }

/-- `reset_done <- 1` (`40_clock_reset.md` R106). -/
def State.setResetDone (s : State) : State := { s with regs := { s.regs with resetDone := true } }

/-- A bus request: the bus outputs as driven and the latches `txn_op` and `txn_addr`
(`41_wishbone.md` R124). -/
def State.request (op : OpCode) (addr : Word) (bus : BusOut) (s : State) : State :=
  { s with regs := { s.regs with bus := bus, txnOp := op, txnAddr := addr } }

/-- `rdata <- sample(wb_dat_out)`, for WB_READ only (`41_wishbone.md` R126). -/
def State.capture (x : Sample) (s : State) : State :=
  if s.regs.txnOp = opWbRead then { s with regs := { s.regs with rdata := x.wbDatOut } } else s

/-- Load the serial registers and select the peer (`42_serial.md` R152). -/
def State.loadFrame (value : Half) (s : State) : State :=
  { s with regs := { s.regs with
      shreg  := value
      rxacc  := 0#16
      bitcnt := 16#5
      link   := { s.regs.link with csN := false } } }

/-- Drive the next bit: master-out takes the top bit and the serial clock is asserted
(`42_serial.md` R153, R155). -/
def State.driveBit (s : State) : State :=
  { s with regs := { s.regs with
      link := { s.regs.link with mosi := topBit s.regs.shreg, sclk := true } } }

/-- Sample the peer's bit, deassert the serial clock and shift (`42_serial.md` R154). -/
def State.sampleBit (miso : Bool) (s : State) : State :=
  { s with regs := { s.regs with
      rxacc  := shiftIn s.regs.rxacc miso
      link   := { s.regs.link with sclk := false }
      shreg  := s.regs.shreg <<< 1
      bitcnt := s.regs.bitcnt - 1#5 } }

/-- Deselect the peer (`42_serial.md` R156). -/
def State.deselect (s : State) : State :=
  { s with regs := { s.regs with link := { s.regs.link with csN := true } } }

end Sys2Proof.Machine
end

