-- ==== Sys2Proof/Machine/Phases.lean ====
section
/-! DEFINITION. What an edge does in each control state, and one edge of the block in the order of
`60_exceptions.md` R181. -/

namespace Sys2Proof.Machine

open Sys2Proof

/-- A phase of a fixed number of edges: at the last one the phase's end is performed, at every other one
`cnt <- r.cnt + 1` (`10_state.md` R28). -/
def State.fixedPhase (limit : Limit) (finish : State → State) (s : State) : State :=
  if s.atLimit limit then finish s.tick else s.tick.stay s.regs.ctl s.phaseCount

/-- RST_ASSERT step (`40_clock_reset.md` R105). -/
def rstAssertStep (s : State) : State :=
  s.fixedPhase s.params.resetAssert fun t => (t.setDutRst false).enter .rstRelease

/-- RST_RELEASE step (`40_clock_reset.md` R106). -/
def rstReleaseStep (s : State) : State :=
  s.fixedPhase s.params.resetRelease fun t =>
    ((t.setResetDone.enter .idle).respond opReset 0#32).record fun f => .reset f.acceptEdge

/-- Ack-rise wait step (`41_wishbone.md` R126): the acknowledge is tested before the timeout. -/
def ackRiseStep (x : Sample) (s : State) : State :=
  if x.wbAck then
    ((s.tick.capture x).idleBus.noteRise (s.regs.cnt.toNat + 1)).enter .awaitAckFall
  else if s.atLimit s.params.ackTimeout then
    s.tick.raise .ackTimeout s.regs.txnOp s.regs.txnAddr s.phaseCount
  else
    s.tick.stay .awaitAckRise s.phaseCount

/-- The event of a WB command that completes with fall-wait length `j` (`20_memory.md` R78). -/
def busEvent (r : Regs) (j : Nat) (f : Flight) : Event :=
  if r.txnOp = opWbRead then .bus opWbRead r.txnAddr 0#32 r.rdata f.acceptEdge f.riseLen j
  else .bus opWbWrite r.txnAddr f.operand 0#32 f.acceptEdge f.riseLen j

/-- Completion of a WB command: the response is `rdata` for WB_READ and 0 for WB_WRITE
(`41_wishbone.md` R131). -/
def wbComplete (r : Regs) (j : Nat) (t : State) : State :=
  (if r.txnOp = opWbRead then (t.enter .idle).respond opWbRead r.rdata
   else (t.enter .idle).respond opWbWrite 0#32).record (busEvent r j)

/-- Ack-fall wait step (`41_wishbone.md` R131): the release is tested before the timeout. -/
def ackFallStep (x : Sample) (s : State) : State :=
  if !x.wbAck then
    wbComplete s.regs (s.regs.cnt.toNat + 1) s.tick
  else if s.atLimit s.params.ackTimeout then
    s.tick.raise .ackNotReleased s.regs.txnOp s.regs.txnAddr s.phaseCount
  else
    s.tick.stay .awaitAckFall s.phaseCount

/-- SPI_CS_SETUP step (`42_serial.md` R153). -/
def spiCsSetupStep (s : State) : State :=
  s.fixedPhase s.params.settle fun t => t.driveBit.enter .spiBitHigh

/-- SPI_BIT_HIGH step (`42_serial.md` R154). -/
def spiBitHighStep (x : Sample) (s : State) : State :=
  s.fixedPhase s.params.settle fun t => (t.sampleBit x.spiMiso).enter .spiBitLow

/-- SPI_BIT_LOW step (`42_serial.md` R155). -/
def spiBitLowStep (s : State) : State :=
  s.fixedPhase s.params.settle fun t =>
    if 0 < s.regs.bitcnt.toNat then t.driveBit.enter .spiBitHigh else t.enter .spiTail

/-- SPI_TAIL step (`42_serial.md` R156). -/
def spiTailStep (s : State) : State :=
  s.fixedPhase s.params.settle fun t =>
    ((t.deselect.enter .idle).respond opSpiExchange (zext32 s.regs.rxacc)).record fun f =>
      .spi (fieldValue f.operand) s.regs.rxacc f.acceptEdge

/-- HALTED step: "the only register that changes" is `rsp_valid`, which becomes 0
(`60_exceptions.md` R177). -/
def haltedStep (s : State) : State := s.tick

/-- One edge of the block, in the order of `60_exceptions.md` R181: POR first; then, in IDLE, what
accepting the presented command does (`onAccept`); in every other state that state's own rule, the
command ports ignored (`30_encoding.md` R84). A reserved code has no step (I4). -/
def edgeWith (onAccept : Sample → State → Host.Outcome State Fault Refusal) (s : State) :
    Host.Outcome State Fault Refusal :=
  if s.sample.por then .next s.tick.powerOn
  else
    match s.regs.err.code with
    | .reserved k => .fault (.reservedErrCode k)
    | .none | .protocolPrecondition | .ackTimeout | .ackNotReleased =>
      match s.regs.ctl with
      | .idle            => onAccept s.sample s
      | .requestAsserted => .next (ackRiseStep s.sample s)
      | .awaitAckRise    => .next (ackRiseStep s.sample s)
      | .awaitAckFall    => .next (ackFallStep s.sample s)
      | .rstAssert       => .next (rstAssertStep s)
      | .rstRelease      => .next (rstReleaseStep s)
      | .spiCsSetup      => .next (spiCsSetupStep s)
      | .spiBitHigh      => .next (spiBitHighStep s.sample s)
      | .spiBitLow       => .next (spiBitLowStep s)
      | .spiTail         => .next (spiTailStep s)
      | .reserved k      => .fault (.reservedCtl k)
      | .halted          => .next (haltedStep s)

/-- An edge at which no command is presented: in IDLE every register but `rsp_valid` keeps its value
(`00_scope.md` R19, `10_state.md` R37). -/
def edgeQuiet (s : State) : Host.Outcome State Fault Refusal :=
  edgeWith (fun _ t => .next t.tick) s

/-- An edge at which a word with a reserved opcode is presented: refused when it is accepted
(`30_encoding.md` R86). -/
def edgeReserved (op : OpCode) (s : State) : Host.Outcome State Fault Refusal :=
  edgeWith (fun _ _ => .refused (.reservedOpcode op)) s

end Sys2Proof.Machine
end

