-- ==== Sys2Proof/Machine/Reset.lean ====
section
/-! DEFINITION. The RESET command (`40_clock_reset.md`). Its later edges are `rstAssertStep` and
`rstReleaseStep`. -/

namespace Sys2Proof.Machine

open Sys2Proof

/-- RESET accept edge (`40_clock_reset.md` R104), in any value of `reset_done`; the sample is not read
(R109). -/
def acceptReset (s : State) : State :=
  (((s.tick.advanceCi.launch s.edge 0#32).idleBus).setDutRst true).enter .rstAssert

/-- RESET (`40_clock_reset.md` R103): an edge at which it is presented. -/
def execReset (s : State) : Host.Outcome State Fault Refusal :=
  edgeWith (fun _ t => .next (acceptReset t)) s

end Sys2Proof.Machine
end

