-- ==== Sys2Proof/Machine/Serial.lean ====
section
/-! DEFINITION. The SPI_EXCHANGE command (`42_serial.md`). Its later edges are `spiCsSetupStep`,
`spiBitHighStep`, `spiBitLowStep` and `spiTailStep`. -/

namespace Sys2Proof.Machine

open Sys2Proof

/-- SPI_EXCHANGE accept edge (`42_serial.md` R152), whatever `reset_done` is; the sample is not read and no
bus output is assigned. -/
def acceptSpi (value : Half) (s : State) : State :=
  ((s.tick.advanceCi.launch s.edge (zext32 value)).loadFrame value).enter .spiCsSetup

/-- SPI_EXCHANGE (`42_serial.md` R158): an edge at which it is presented. -/
def execSpiExchange (value : Half) (s : State) : Host.Outcome State Fault Refusal :=
  edgeWith (fun _ t => .next (acceptSpi value t)) s

end Sys2Proof.Machine
end

