-- ==== Sys2Proof/Machine/Wishbone.lean ====
section
/-! DEFINITION. The commands WB_WRITE and WB_READ (`41_wishbone.md`). Their later edges are `ackRiseStep`
and `ackFallStep`. -/

namespace Sys2Proof.Machine

open Sys2Proof

/-- WB accept edge (`41_wishbone.md` R123), in the order of `60_exceptions.md` R181: refused before the
first RESET has completed, ProtocolPrecondition on a stale acknowledge, else the request. -/
def acceptWb (op : OpCode) (addr operand : Word) (bus : BusOut) (x : Sample) (s : State) :
    Host.Outcome State Fault Refusal :=
  if !s.regs.resetDone then .refused .transactionBeforeReset
  else if x.wbAck then .next (s.tick.advanceCi.raise .protocolPrecondition op addr 0#32)
  else .next (((s.tick.advanceCi.launch s.edge operand).request op addr bus).enter .requestAsserted)

/-- WB_WRITE (`41_wishbone.md` R136): an edge at which it is presented. -/
def execWbWrite (addr data : Word) (s : State) : Host.Outcome State Fault Refusal :=
  edgeWith (fun x t => acceptWb opWbWrite addr data (t.regs.bus.driveWrite addr data) x t) s

/-- WB_READ (`41_wishbone.md` R137): an edge at which it is presented. -/
def execWbRead (addr : Word) (s : State) : Host.Outcome State Fault Refusal :=
  edgeWith (fun x t => acceptWb opWbRead addr 0#32 (t.regs.bus.driveRead addr) x t) s

end Sys2Proof.Machine
end

