-- ==== Sys2Proof/Machine/Dispatch.lean ====
section
/-! DEFINITION. One edge at which a command is presented, by command: one arm per constructor of Instr. -/

namespace Sys2Proof.Machine

open Sys2Proof

def exec (i : Instr) (s : State) : Host.Outcome State Fault Refusal :=
  match i with
  | .reset => Sys2Proof.Machine.execReset s
  | .wbWrite addr data => Sys2Proof.Machine.execWbWrite addr data s
  | .wbRead addr => Sys2Proof.Machine.execWbRead addr s
  | .spiExchange value => Sys2Proof.Machine.execSpiExchange value s

end Sys2Proof.Machine
end

