-- ==== Sys2Proof/Machine/Step.lean ====
section
/-! DEFINITION. One step of the machine: one rising edge of `clk` (`00_scope.md` R18). -/

namespace Sys2Proof.Machine

open Sys2Proof

/-- One edge: of the command word on the ports, if the host presents one, else a quiet edge
(`30_encoding.md` R84, R85). -/
def step (s : State) : Host.Outcome State Fault Refusal :=
  match s.presented with
  | none => edgeQuiet s
  | some w =>
    match decode w with
    | .instr i     => exec i s
    | .reserved op => edgeReserved op s

/-- The state with one command word in the host's program at its index, presented at the coming edge with
`por` low: the command the next step runs. The block's registers and the DUT's lines are as they were, so
a block that is not IDLE does not accept it (log entry 3). -/
def State.withFetchWord (s : State) (nbits w : Nat) : State :=
  { s with
    program := (s.program ++ List.replicate s.ci 0#67).take s.ci
                 ++ BitVec.ofNat 67 (w % 2 ^ nbits) :: s.program.drop (s.ci + 1)
    inputs  := { s.sample with por := false, present := true } :: s.inputs.tail }

end Sys2Proof.Machine
end

