-- ==== Sys2Proof/WellFormed.lean ====
section
/-! DEFINITION. The checks on a command's fields, on a cycle parameter and on a pin map.
The operands of `Instr` need none: their types have exactly the encoding's widths. -/

namespace Sys2Proof

/-- The opcode of the command fields is one of the four that `30_encoding.md` R82 assigns.
The ignored fields may hold any value (R87). -/
def Cmd.wellFormed (c : Cmd) : Bool :=
  c.op = 1#3 || c.op = 2#3 || c.op = 3#3 || c.op = 4#3

/-- A cycle parameter is legal when it is at least 1 and fits `CNT_WIDTH` bits (`00_scope.md` R16, D24). -/
def limitLegal (n : Nat) : Bool := 1 ≤ n && n ≤ 4294967295

/-- A count as a cycle parameter, when it is legal. -/
def limitOf (n : Nat) : Option Limit :=
  if h : 1 ≤ n ∧ n ≤ 4294967295 then some ⟨n, h⟩ else none

/-- The serial link takes four different pins of the array (`70_reset_and_hazards.md` R203: disjoint
pin ownership), each below `NUM_PINS` (`00_scope.md` R17). -/
def PinMap.wellFormed (m : PinMap) (numPins : Fin 65) : Bool :=
  [m.csN, m.sclk, m.mosi, m.miso].Nodup &&
  [m.csN, m.sclk, m.mosi, m.miso].all (fun p => p.val < numPins.val)

end Sys2Proof
end

