-- ==== Sys2Proof/Machine/Sequencing.lean ====
section
/-! DEFINITION. The text form's lines and the sequencing layer's pseudo-commands, as the commands they
stand for (`30_encoding.md` R89, R95). The block never sees them. -/

namespace Sys2Proof.Machine

open Sys2Proof

/-- A line of a program: a command of R89, its serial value a number as written, or a pseudo-command of
R95. -/
inductive Line where
  | reset
  | wbWrite (addr data : Word)
  | wbRead (addr : Word)
  | spiExchange (value : Nat)
  | selectProject (p : Word)
  | readProject
  | setOe (io : Nat)
  | spiSend (ctl8 data8 : BitVec 8)
  deriving DecidableEq, Repr

/-- The low half written by `SET_OE io` (R95). -/
def oeLo (io : Nat) : Word := if io < 32 then 1#32 <<< io else 0#32

/-- The high half written by `SET_OE io` (R95). -/
def oeHi (io : Nat) : Word := if 32 ≤ io then 1#32 <<< (io - 32) else 0#32

/-- The frame of `SPI_SEND ctl8, data8`: `(ctl8 << 8) | data8` (R95, `42_serial.md` R164). -/
def sendFrame (ctl8 data8 : BitVec 8) : Half := (ctl8 ++ data8).cast (show 8 + 8 = 16 from rfl)

/-- The commands a line stands for; none for a line that is an error of the text: a serial value over
0xFFFF (R89) or a pin that is not below `NUM_PINS` (R95). `SET_OE` writes the low half first (R95).
DESIGN CHOICE (log entry 17): the project range is open (D34, N24), and `SELECT_PROJECT p` is a command for
every 32-bit `p`. -/
def assemble (q : SeqParams) : Line → Option (List Instr)
  | .reset              => some [.reset]
  | .wbWrite addr data  => some [.wbWrite addr data]
  | .wbRead addr        => some [.wbRead addr]
  | .spiExchange value  => if value ≤ 0xFFFF then some [.spiExchange (BitVec.ofNat 16 value)] else none
  | .selectProject p    => some [.wbWrite q.pselAddr p]
  | .readProject        => some [.wbRead q.pselAddr]
  | .setOe io           =>
    if io < q.numPins.val then some [.wbWrite q.oeLoAddr (oeLo io), .wbWrite q.oeHiAddr (oeHi io)] else none
  | .spiSend ctl8 data8 => some [.spiExchange (sendFrame ctl8 data8)]

/-- A program's command words, in program order (R89); none if a line is an error of the text. -/
def assembleAll (q : SeqParams) : List Line → Option (List CmdWord)
  | []        => some []
  | l :: rest =>
    match assemble q l, assembleAll q rest with
    | some is, some ws => some (is.map encode ++ ws)
    | _, _             => none

end Sys2Proof.Machine
end

