-- ==== Sys2Proof/Safety.lean ====
section
/-! DEFINITION. The terms in which claims about the machine are made: when a command is accepted, runs of
many edges, launch and end of a run, faults, the host's and the DUT's duties, and the invariant that every
edge keeps. -/

namespace Sys2Proof.Machine

open Sys2Proof

/-- `err_code` holds one of the four codes that are ever written (`10_state.md` R34); the reserved ones have
no step (I4). -/
abbrev State.Live (s : State) : Prop := ∀ k : Fin 4, s.regs.err.code ≠ .reserved k

/-- A command presented at the coming edge is accepted there (`30_encoding.md` R84): `por` is low and the
block is IDLE. -/
abbrev State.Accepting (s : State) : Prop :=
  s.sample.por = false ∧ s.regs.ctl = .idle ∧ s.Live

/-- `por` is low at the next `n` edges. -/
abbrev State.PorLow (s : State) (n : Nat) : Prop := ∀ i, i < n → (s.sampleAt i).por = false

/-- `n` edges of the machine, stopping at the first fault or refusal. -/
def runEdges : Nat → State → Host.Outcome State Fault Refusal
  | 0, s => .next s
  | n + 1, s =>
    match step s with
    | .next t    => runEdges n t
    | .fault f   => .fault f
    | .refused r => .refused r

/-- `s` one edge on, its sample used up, with the registers `r` and everything else as it was. -/
def State.edgeOn (s : State) (r : Regs) : State :=
  { s with edge := s.edge + 1, inputs := s.inputs.tail, regs := r }

/-- The registers with `rsp_valid = 0`, as at every edge that does not respond (`10_state.md` R37). -/
def Regs.noRsp (r : Regs) : Regs := { r with rsp := { r.rsp with valid := false } }

/-- The state with other values of the DUT's bus lines at the coming edge. -/
def State.withBusLines (s : State) (ack : Bool) (dat : Word) : State :=
  { s with inputs := { s.sample with wbAck := ack, wbDatOut := dat } :: s.inputs.tail }

/-- The state with another value of `spi_miso` at the coming edge. -/
def State.withMiso (s : State) (miso : Bool) : State :=
  { s with inputs := { s.sample with spiMiso := miso } :: s.inputs.tail }

/-- `launch_clean` with any parameters, program and agents (`70_reset_and_hazards.md` R193): the state after
a POR edge at edge 0. -/
def State.launchClean (params : Params) (program : List CmdWord) (inputs : List Sample) : State :=
  { State.reset with params := params, program := program, inputs := inputs }

/-- A fatal error has been taken: `ctl = HALTED` with `err_code ≠ 0` (`60_exceptions.md` R189). -/
abbrev State.Faulted (s : State) : Prop := s.regs.ctl = .halted ∧ s.regs.err.code ≠ .none

/-- The event is the error event of a failed WB command (`20_memory.md` R78). -/
def Event.isError : Event → Bool
  | .error _ _ _ _ => true
  | .bus _ _ _ _ _ _ _ | .spi _ _ _ | .reset _ => false

/-- The run has reached HALTED: an error event stands in its record, which POR keeps
(`70_reset_and_hazards.md` R213, `60_exceptions.md` R189; log entry 19). -/
def State.hasFailed (s : State) : Bool := s.history.any Event.isError

/-- What R213 asks of a state at the end of a run: every command of the program is accepted, the block is IDLE,
and the last command has completed, neither failed nor abandoned; and "a run in which `ctl = HALTED` is
reached has not ended" (`70_reset_and_hazards.md` R213; log entry 19). -/
abbrev State.Ended (s : State) : Prop :=
  s.ci = s.program.length ∧ s.regs.ctl = .idle ∧ s.completed = s.ci ∧ s.hasFailed = false

/-- The run from `s` ends `n` edges on, in `t`: "at the first edge `e` after which all of these hold"
(`70_reset_and_hazards.md` R213). -/
def State.EndsAfter (s : State) (n : Nat) (t : State) : Prop :=
  runEdges n s = .next t ∧ t.Ended ∧ ∀ (m : Nat) (u : State), m < n → runEdges m s = .next u → ¬ u.Ended

/-- The result of a run that has ended: the list of responses and the final registers
(`70_reset_and_hazards.md` R213). -/
def State.result (s : State) : List (OpCode × Word) × Regs := (s.responses, s.regs)

/-- What the bookkeeping of a run's end means: the last accepted command has not completed while the block is
busy or halted, and a halted block's run has failed (`70_reset_and_hazards.md` R213). -/
structure State.Tally (s : State) : Prop where
  le : s.completed ≤ s.ci
  busy : s.regs.busy = true → s.completed < s.ci
  halted : s.regs.ctl = .halted → s.completed < s.ci ∧ s.hasFailed = true

/-- A safe state of a run: no fatal error has been taken (`60_exceptions.md` R189). -/
abbrev State.Safe (s : State) : Prop := ¬ s.Faulted

/-- The host's duty on its program (`70_reset_and_hazards.md` R200, R211): no reserved opcode, and no WB
command before the first RESET; `done` says whether a RESET stands before. -/
def programDutiful (done : Bool) : List CmdWord → Bool
  | []      => true
  | w :: ws =>
    match decode w with
    | .instr .reset           => programDutiful true ws
    | .instr (.wbWrite _ _)   => done && programDutiful done ws
    | .instr (.wbRead _)      => done && programDutiful done ws
    | .instr (.spiExchange _) => programDutiful done ws
    | .reserved _             => false

/-- The transaction `MemWrite(addr, 4, v)` in the record: one completed WB_WRITE (`41_wishbone.md` R139). -/
def Event.memWrite (e : Event) (addr v : Word) : Bool :=
  match e with
  | .bus op a w _ _ _ _                        => op = opWbWrite && a = addr && w = v
  | .error _ _ _ _ | .spi _ _ _ | .reset _ => false

/-- The transaction `v <- MemRead(addr, 4)` in the record: one completed WB_READ (`41_wishbone.md` R139). -/
def Event.memRead (e : Event) (addr v : Word) : Bool :=
  match e with
  | .bus op a _ r _ _ _                        => op = opWbRead && a = addr && r = v
  | .error _ _ _ _ | .spi _ _ _ | .reset _ => false

/-- The DUT premise that an address is read-as-written along a record (`20_memory.md` R73): a read returns
the last word written before it. It is an assumption of a claim, never a rule. DESIGN CHOICE (log entry 18):
R73 does not say whether a RESET, a write that failed, a POR edge, or a write that POR abandons ends the premise
(I13, I15); here the last word completed stands across all four. The last two leave no event in the record. -/
def readAsWritten (addr : Word) (last : Option Word) : List Event → Bool
  | []      => true
  | e :: es =>
    match e with
    | .bus op a w r _ _ _ =>
      if a = addr ∧ op = opWbWrite then readAsWritten addr (some w) es
      else if a = addr ∧ op = opWbRead then (last.all (· = r)) && readAsWritten addr last es
      else readAsWritten addr last es
    | .error _ _ _ _ | .spi _ _ _ | .reset _ => readAsWritten addr last es

/-- The idle bus of `10_state.md` R43; write-enable may be either (R36). -/
abbrev BusOut.Idle (b : BusOut) : Prop :=
  b.stb = false ∧ b.cyc = false ∧ b.sel = 0#4 ∧ b.adr = 0#32 ∧ b.datIn = 0#32

/-- The bus request of the latched command is driven (`10_state.md` R44, `41_wishbone.md` R124). -/
abbrev Regs.Requesting (r : Regs) : Prop :=
  r.bus.stb = true ∧ r.bus.cyc = true ∧ r.bus.sel = 0b1111#4 ∧ r.bus.adr = r.txnAddr ∧
    r.bus.we = (r.txnOp == 2#3) ∧ (r.bus.we = false → r.bus.datIn = 0#32)

/-- When the bus is idle and when a request is driven (`10_state.md` R43, R44; `60_exceptions.md` R173 to
R175). -/
def Regs.BusInv (r : Regs) : Prop :=
  match r.ctl with
  | .requestAsserted | .awaitAckRise => r.Requesting
  | .halted => if r.err.code = .ackTimeout then r.Requesting else r.bus.Idle
  | .idle | .awaitAckFall | .rstAssert | .rstRelease | .spiCsSetup | .spiBitHigh | .spiBitLow | .spiTail
  | .reserved _ => r.bus.Idle

/-- The latches while a WB command is in progress: its opcode is WB_WRITE or WB_READ, a RESET has completed,
and write-enable shows its direction (`41_wishbone.md` R123, R124, R129). -/
def Regs.TxnInv (r : Regs) : Prop :=
  match r.ctl with
  | .requestAsserted | .awaitAckRise | .awaitAckFall =>
    (r.txnOp = 2#3 ∨ r.txnOp = 3#3) ∧ r.resetDone = true ∧ r.bus.we = (r.txnOp == 2#3)
  | .idle | .rstAssert | .rstRelease | .spiCsSetup | .spiBitHigh | .spiBitLow | .spiTail
  | .reserved _ | .halted => True

/-- The serial outputs in each state: selected exactly during an exchange, the clock high exactly in
SPI_BIT_HIGH (`10_state.md` R25, `42_serial.md` R157, R161). -/
def Regs.LinkInv (r : Regs) : Prop :=
  match r.ctl with
  | .spiBitHigh => r.link.csN = false ∧ r.link.sclk = true
  | .spiCsSetup | .spiBitLow | .spiTail => r.link.csN = false ∧ r.link.sclk = false
  | .idle | .requestAsserted | .awaitAckRise | .awaitAckFall | .rstAssert | .rstRelease | .reserved _
  | .halted => r.link.csN = true ∧ r.link.sclk = false

/-- The frame bits left in each state (`10_state.md` R29, `42_serial.md` R152 to R156). -/
def Regs.BitInv (r : Regs) : Prop :=
  match r.ctl with
  | .spiCsSetup => r.bitcnt = 16#5
  | .spiBitHigh => 1 ≤ r.bitcnt.toNat ∧ r.bitcnt.toNat ≤ 16
  | .spiBitLow  => r.bitcnt.toNat ≤ 15
  | .spiTail | .idle | .requestAsserted | .awaitAckRise | .awaitAckFall | .rstAssert | .rstRelease
  | .reserved _ | .halted => r.bitcnt = 0#5

/-- The error context: clear outside HALTED, and in HALTED the context of the failed command
(`60_exceptions.md` R170 to R175). -/
def Regs.ErrInv (r : Regs) (p : Params) : Prop :=
  match r.ctl with
  | .halted =>
    (r.err.op = 2#3 ∨ r.err.op = 3#3) ∧
    match r.err.code with
    | .protocolPrecondition => r.err.elapsed = 0#32
    | .ackTimeout | .ackNotReleased =>
      r.err.op = r.txnOp ∧ r.err.addr = r.txnAddr ∧ r.err.elapsed.toNat = p.ackTimeout.val
    | .none | .reserved _ => False
  | .idle | .requestAsserted | .awaitAckRise | .awaitAckFall | .rstAssert | .rstRelease | .spiCsSetup
  | .spiBitHigh | .spiBitLow | .spiTail | .reserved _ => r.err = ErrCtx.por

/-- `cnt` stays below the limit of its phase (`10_state.md` R28, `20_memory.md` R79). -/
def Regs.CountInv (r : Regs) (p : Params) : Prop :=
  match r.ctl with
  | .idle | .requestAsserted => r.cnt = 0#32
  | .awaitAckRise => 1 ≤ r.cnt.toNat ∧ r.cnt.toNat < p.ackTimeout.val
  | .awaitAckFall => r.cnt.toNat < p.ackTimeout.val
  | .rstAssert    => r.cnt.toNat < p.resetAssert.val
  | .rstRelease   => r.cnt.toNat < p.resetRelease.val
  | .spiCsSetup | .spiBitHigh | .spiBitLow | .spiTail => r.cnt.toNat < p.settle.val
  | .halted     => r.cnt.toNat < p.ackTimeout.val
  | .reserved _ => True

/-- How many edges after its accept edge the command in progress is, at the coming edge
(`40_clock_reset.md` R108, `41_wishbone.md` R128 to R133, `42_serial.md` R157). -/
def Regs.sinceAccept (r : Regs) (p : Params) (f : Flight) : Nat :=
  match r.ctl with
  | .requestAsserted | .awaitAckRise | .rstAssert | .spiCsSetup => r.cnt.toNat + 1
  | .awaitAckFall => f.riseLen + r.cnt.toNat + 1
  | .rstRelease   => p.resetAssert.val + r.cnt.toNat + 1
  | .spiBitHigh   => p.settle.val * (1 + 2 * (16 - r.bitcnt.toNat)) + r.cnt.toNat + 1
  | .spiBitLow    => p.settle.val * (2 * (16 - r.bitcnt.toNat)) + r.cnt.toNat + 1
  | .spiTail      => p.settle.val * 33 + r.cnt.toNat + 1
  | .idle | .halted | .reserved _ => 0

/-- The timeline: a command is in progress exactly while the block is busy, and its accept edge is as many
edges back as the phase says. -/
def State.TimeInv (s : State) : Prop :=
  match s.flight with
  | none   => s.regs.busy = false
  | some f => s.regs.busy = true ∧ s.edge = f.acceptEdge + s.regs.sinceAccept s.params f

/-- The record of the command in progress: the rise-wait length within its bound, and the data operand of a
write as it is driven (`41_wishbone.md` R124, R128). -/
def State.FlightInv (s : State) : Prop :=
  match s.flight with
  | none   => True
  | some f =>
    match s.regs.ctl with
    | .requestAsserted | .awaitAckRise => f.riseLen = 0 ∧ (s.regs.bus.we = true → s.regs.bus.datIn = f.operand)
    | .awaitAckFall => 1 ≤ f.riseLen ∧ f.riseLen ≤ s.params.ackTimeout.val
    | .idle | .rstAssert | .rstRelease | .spiCsSetup | .spiBitHigh | .spiBitLow | .spiTail
    | .reserved _ | .halted => True

/-- The exchange in progress: the shift register holds the value shifted by the bits done, master-out shows
the bit whose turn it is, and the accumulator holds no more than the bits received
(`42_serial.md` R153 to R157, R159). -/
def State.SerialInv (s : State) : Prop :=
  match s.flight with
  | none   => True
  | some f =>
    match s.regs.ctl with
    | .spiCsSetup => s.regs.shreg = fieldValue f.operand ∧ s.regs.rxacc = 0#16
    | .spiBitHigh =>
      s.regs.shreg = fieldValue f.operand <<< (16 - s.regs.bitcnt.toNat) ∧
      s.regs.link.mosi = (fieldValue f.operand).getLsbD (s.regs.bitcnt.toNat - 1) ∧
      s.regs.rxacc.toNat < 2 ^ (16 - s.regs.bitcnt.toNat)
    | .spiBitLow =>
      s.regs.shreg = fieldValue f.operand <<< (16 - s.regs.bitcnt.toNat) ∧
      s.regs.link.mosi = (fieldValue f.operand).getLsbD s.regs.bitcnt.toNat ∧
      s.regs.rxacc.toNat < 2 ^ (16 - s.regs.bitcnt.toNat)
    | .spiTail => s.regs.shreg = 0#16 ∧ s.regs.link.mosi = (fieldValue f.operand).getLsbD 0
    | .idle | .requestAsserted | .awaitAckRise | .awaitAckFall | .rstAssert | .rstRelease
    | .reserved _ | .halted => True

/-- The invariant of the machine: what the rules say holds in every state after the first POR. -/
structure State.Inv (s : State) : Prop where
  /-- No reserved `ctl` code is held (`10_state.md` R27). -/
  legalCtl : ∀ k : Fin 5, s.regs.ctl ≠ .reserved k
  bus : s.regs.BusInv
  txn : s.regs.TxnInv
  link : s.regs.LinkInv
  bits : s.regs.BitInv
  err : s.regs.ErrInv s.params
  count : s.regs.CountInv s.params
  /-- `dut_rst = 1` exactly in RST_ASSERT (`40_clock_reset.md` R104, R105). -/
  dutRst : s.regs.dutRst = (s.regs.ctl == .rstAssert)
  /-- `rsp_valid = 1` only in the cycle after a completion edge, when the block is IDLE
  (`10_state.md` R37). -/
  rsp : s.regs.rsp.valid = true → s.regs.ctl = .idle
  time : s.TimeInv
  flight : s.FlightInv
  serial : s.SerialInv

/-- An upper bound on the edges until the command in progress has completed or failed, `por` staying low
(`70_reset_and_hazards.md` R209, R212). -/
def Regs.remaining (r : Regs) (p : Params) : Nat :=
  match r.ctl with
  | .idle | .halted | .reserved _ => 0
  | .requestAsserted | .awaitAckRise => 2 * p.ackTimeout.val - r.cnt.toNat
  | .awaitAckFall => p.ackTimeout.val - r.cnt.toNat
  | .rstAssert    => p.resetAssert.val + p.resetRelease.val - r.cnt.toNat
  | .rstRelease   => p.resetRelease.val - r.cnt.toNat
  | .spiCsSetup   => p.settle.val * 34 - r.cnt.toNat
  | .spiBitHigh   => p.settle.val * (2 * r.bitcnt.toNat + 1) - r.cnt.toNat
  | .spiBitLow    => p.settle.val * (2 * r.bitcnt.toNat + 2) - r.cnt.toNat
  | .spiTail      => p.settle.val - r.cnt.toNat

end Sys2Proof.Machine
end

