-- ==== Sys2Proof/Certificates/Slice0/Obligations.lean ====
section
/-! DEFINITION. The statements about the machine, made from the numbered rules of spec/. -/

open Sys2Proof Sys2Proof.Machine

/-! ### Encoding (`30_encoding.md`) -/

/-- Decode and encode agree on every command with every operand (section 1 and 2 of `30_encoding.md`). -/
def Obligations.DecodeOfEncodeIsTheCommand : Prop :=
  ∀ i : Instr, decode (encode i) = .instr i

/-- A word that decodes to a command is that command's encoding on every bit the command uses. -/
def Obligations.EncodeOfDecodeKeepsUsedBits : Prop :=
  ∀ (w : CmdWord) (i : Instr), decode w = .instr i → w &&& usedBits i = encode i

/-- R87: an ignored field may hold any value, and the command is the same. -/
def Obligations.IgnoredFieldsDoNotChangeTheCommand : Prop :=
  ∀ (w v : CmdWord) (i : Instr), decode w = .instr i → decode (w ^^^ (v &&& ~~~ usedBits i)) = .instr i

/-- R82: the opcode of every command, by the opcode table's match and mask, and the reserved opcodes, by name;
the all-zero word is reserved. -/
def Obligations.DecoderAgreesWithOpcodeTable : Prop :=
  (∀ w : CmdWord,
    (decode w = .instr .reset ↔ w &&& 0x70000000000000000#67 = 0x10000000000000000#67) ∧
    ((∃ a d, decode w = .instr (.wbWrite a d)) ↔ w &&& 0x70000000000000000#67 = 0x20000000000000000#67) ∧
    ((∃ a, decode w = .instr (.wbRead a)) ↔ w &&& 0x70000000000000000#67 = 0x30000000000000000#67) ∧
    ((∃ v, decode w = .instr (.spiExchange v)) ↔ w &&& 0x70000000000000000#67 = 0x40000000000000000#67) ∧
    (∀ op, decode w = .reserved op ↔
      op = w.extractLsb' 64 3 ∧ (op = 0b000#3 ∨ op = 0b101#3 ∨ op = 0b110#3 ∨ op = 0b111#3))) ∧
  decode 0#67 = .reserved 0b000#3

/-- The worked words of `30_encoding.md` section 8 decode to the commands beside them, and those commands
encode to them; WB_WRITE is `010` followed by the address and the data. -/
def Obligations.WorkedWordsDecodeAndEncode : Prop :=
  decode 0x10000000000000000#67 = .instr .reset ∧
  decode 0x200000004DEADBEEF#67 = .instr (.wbWrite 0x00000004#32 0xDEADBEEF#32) ∧
  decode 0x30000000400000000#67 = .instr (.wbRead 0x00000004#32) ∧
  decode 0x40000000000008001#67 = .instr (.spiExchange 0x8001#16) ∧
  decode 0x40000000000008842#67 = .instr (.spiExchange 0x8842#16) ∧
  encode .reset = 0x10000000000000000#67 ∧
  encode (.wbWrite 0x00000004#32 0xDEADBEEF#32) = 0x200000004DEADBEEF#67 ∧
  encode (.wbRead 0x00000004#32) = 0x30000000400000000#67 ∧
  encode (.spiExchange 0x8001#16) = 0x40000000000008001#67 ∧
  encode (.spiExchange 0x8842#16) = 0x40000000000008842#67 ∧
  ∀ a d : Word, encode (.wbWrite a d) = (0b010#3 ++ (a ++ d)).cast (show 3 + (32 + 32) = 67 from rfl)

/-! ### Acceptance and the step (`30_encoding.md` R84 to R86, `10_state.md` R21) -/

/-- A step runs the decoded command: when the word on the ports decodes to a command, the step is `exec` of
it at that state, and nothing is added around it. -/
def Obligations.StepRunsTheDecodedCommand : Prop :=
  ∀ (s : State) (w : CmdWord) (i : Instr), s.presented = some w → decode w = .instr i → step s = exec i s

/-- A word placed where the next step takes its command is the command the step runs. -/
def Obligations.StepRunsThePlacedWord : Prop :=
  ∀ (s : State) (nbits w : Nat) (i : Instr), decodeTableWord nbits w = some i →
    (s.withFetchWord nbits w).presented = some (BitVec.ofNat 67 (w % 2 ^ nbits)) ∧
    step (s.withFetchWord nbits w) = exec i (s.withFetchWord nbits w)

/-- At an edge with `por` high or with a block that is not IDLE the command ports are ignored: every command
presented, and none, gives the same outcome. -/
def Obligations.CommandPortsIgnoredUnlessAccepting : Prop :=
  ∀ (s : State) (i : Instr), s.sample.por = true ∨ s.regs.ctl ≠ .idle → exec i s = step s

/-- R21: the command index starts at 0, advances by 1 at an edge where a command is accepted, and changes at no
other edge. -/
def Obligations.CommandIndexAdvancesAtAcceptEdgesOnly : Prop :=
  State.reset.ci = 0 ∧
  ∀ s t : State, step s = .next t →
    t.ci = if s.cmdValid = true ∧ s.sample.por = false ∧ s.regs.ctl = .idle then s.ci + 1 else s.ci

/-- A reserved opcode is refused when its word is accepted. -/
def Obligations.ReservedOpcodeIsRefusedWhenAccepted : Prop :=
  ∀ (s : State) (w : CmdWord), s.Accepting → s.presented = some w →
    (fieldOp w = 0b000#3 ∨ fieldOp w = 0b101#3 ∨ fieldOp w = 0b110#3 ∨ fieldOp w = 0b111#3) →
    step s = .refused (.reservedOpcode (fieldOp w))

/-- The only runs without meaning: a WB command accepted before RESET, and a reserved opcode accepted. -/
def Obligations.OnlyTwoRefusals : Prop :=
  ∀ (s : State) (r : Refusal), step s = .refused r →
    s.Accepting ∧ ∃ w, s.presented = some w ∧
      ((s.regs.resetDone = false ∧ r = .transactionBeforeReset ∧ (fieldOp w = 0b010#3 ∨ fieldOp w = 0b011#3)) ∨
       (r = .reservedOpcode (fieldOp w) ∧
         (fieldOp w = 0b000#3 ∨ fieldOp w = 0b101#3 ∨ fieldOp w = 0b110#3 ∨ fieldOp w = 0b111#3)))

/-- An edge in IDLE at which no command is presented changes no register but `rsp_valid`. -/
def Obligations.QuietEdgeKeepsEveryRegister : Prop :=
  ∀ s : State, s.Accepting → s.presented = none → step s = .next (s.edgeOn s.regs.noRsp)

/-! ### Reset values (`10_state.md` section 8) -/

/-- The POR column of the reset table, register by register. -/
def Obligations.ResetLeavesThePorValues : Prop :=
  State.reset.regs =
    { ctl := .idle, cnt := 0#32, bitcnt := 0#5, shreg := 0#16, rxacc := 0#16, rdata := 0#32, txnOp := 0#3,
      txnAddr := 0#32, err := { code := .none, op := 0#3, addr := 0#32, elapsed := 0#32 }, resetDone := false,
      bus := { stb := false, cyc := false, we := false, sel := 0#4, adr := 0#32, datIn := 0#32 },
      dutRst := false, link := { csN := true, sclk := false, mosi := false },
      rsp := { valid := false, op := 0#3, data := 0#32 } } ∧
  State.reset.ci = 0 ∧ State.reset.history = [] ∧ State.reset.flight = none ∧ State.reset.regs.status = 0#32

/-- R46: at an edge with `por` high every register takes its POR value, in every state and whatever the other
inputs are; no command is accepted, so every command presented gives the same edge; and no other edge leaves
HALTED. -/
def Obligations.PorEdgeGivesPorValues : Prop :=
  (∀ s : State, s.sample.por = true →
    (∃ t, step s = .next t ∧ t.regs = State.reset.regs ∧ t.ci = s.ci) ∧ ∀ i : Instr, exec i s = step s) ∧
  ∀ s t : State, step s = .next t → s.regs.ctl = .halted → t.regs.ctl ≠ .halted → s.sample.por = true

/-! ### RESET (`40_clock_reset.md`) -/

/-- R104: the RESET accept edge, in any value of `reset_done`: every register after it. -/
def Obligations.ResetAcceptEdge : Prop :=
  ∀ s : State, s.Accepting →
    ∃ t, exec .reset s = .next t ∧
      t.regs = { s.regs.noRsp with
        bus := { s.regs.bus with stb := false, cyc := false, sel := 0b0000#4, datIn := 0#32, adr := 0#32 }
        dutRst := true, cnt := 0#32, ctl := .rstAssert }

/-- R105: the RST_ASSERT step: every register after it. -/
def Obligations.RstAssertEdge : Prop :=
  ∀ s : State, s.sample.por = false → s.Live → s.regs.ctl = .rstAssert →
    ∃ t, step s = .next t ∧
      t.regs = if s.regs.cnt.toNat + 1 = s.params.resetAssert.val then
          { s.regs.noRsp with dutRst := false, cnt := 0#32, ctl := .rstRelease }
        else { s.regs.noRsp with cnt := s.regs.cnt + 1#32 }

/-- R106: the RST_RELEASE step: every register after it. -/
def Obligations.RstReleaseEdge : Prop :=
  ∀ s : State, s.sample.por = false → s.Live → s.regs.ctl = .rstRelease →
    ∃ t, step s = .next t ∧
      t.regs = if s.regs.cnt.toNat + 1 = s.params.resetRelease.val then
          { s.regs with
            resetDone := true, cnt := 0#32, ctl := .idle
            rsp := { valid := true, op := 0b001#3, data := 0#32 } }
        else { s.regs.noRsp with cnt := s.regs.cnt + 1#32 }

/-- RESET completes A + B edges after its accept edge, with the effect of the reset table's RESET column and
nothing else changed. That a RESET enters the record at its completion edge is the model's choice (log
entry 7). -/
def Obligations.ResetCompletesAfterItsCycles : Prop :=
  ∀ s : State, s.Accepting →
    s.PorLow (s.params.resetAssert.val + s.params.resetRelease.val + 1) →
    ∃ u t, exec .reset s = .next u ∧
      runEdges (s.params.resetAssert.val + s.params.resetRelease.val) u = .next t ∧
      t.regs = { s.regs with
        ctl := .idle, cnt := 0#32, resetDone := true, dutRst := false
        bus := { s.regs.bus with stb := false, cyc := false, sel := 0#4, adr := 0#32, datIn := 0#32 }
        rsp := { valid := true, op := 0b001#3, data := 0#32 } } ∧
      t.edge = s.edge + s.params.resetAssert.val + s.params.resetRelease.val + 1 ∧ t.ci = s.ci + 1 ∧
      t.flight = none ∧ t.history = s.history ++ [.reset s.edge] ∧
      t.responses = s.responses ++ [(0b001#3, 0#32)]

/-- RESET drives `dut_rst` high for exactly A edges: it is high after the accept edge and after each of the
next A − 1 edges, and low after the A-th. -/
def Obligations.ResetHoldsDutResetForAssertCycles : Prop :=
  ∀ s : State, s.Accepting → s.PorLow (s.params.resetAssert.val + 1) →
    ∃ u, exec .reset s = .next u ∧
      (∀ n, n < s.params.resetAssert.val → ∃ t, runEdges n u = .next t ∧ t.regs.dutRst = true) ∧
      ∃ t, runEdges s.params.resetAssert.val u = .next t ∧ t.regs.dutRst = false

/-- WB_WRITE and WB_READ accepted with `reset_done = 0` are refused. -/
def Obligations.TransactionBeforeResetIsRefused : Prop :=
  ∀ (s : State) (addr data : Word), s.Accepting → s.regs.resetDone = false →
    exec (.wbWrite addr data) s = .refused .transactionBeforeReset ∧
    exec (.wbRead addr) s = .refused .transactionBeforeReset

/-! ### WB_WRITE and WB_READ (`41_wishbone.md`) -/

/-- R124: the request drive of both commands at the accept edge: every register after it. -/
def Obligations.WbRequestDrive : Prop :=
  ∀ (s : State) (addr data : Word), s.Accepting → s.regs.resetDone = true → s.sample.wbAck = false →
    (∃ t, exec (.wbWrite addr data) s = .next t ∧
      t.regs = { s.regs.noRsp with
        bus := { stb := true, cyc := true, sel := 0b1111#4, adr := addr, we := true, datIn := data }
        txnOp := 0b010#3, txnAddr := addr, cnt := 0#32, ctl := .requestAsserted }) ∧
    (∃ t, exec (.wbRead addr) s = .next t ∧
      t.regs = { s.regs.noRsp with
        bus := { s.regs.bus with stb := true, cyc := true, sel := 0b1111#4, adr := addr, we := false }
        txnOp := 0b011#3, txnAddr := addr, cnt := 0#32, ctl := .requestAsserted })

/-- A WB command accepted with the acknowledge high raises ProtocolPrecondition: the context is recorded, the
request is never driven, and no other register changes. The event in the record is the model's reading of R78
(log entry 7). -/
def Obligations.StaleAcknowledgeRaisesProtocolPrecondition : Prop :=
  ∀ (s : State) (addr data : Word), s.Accepting → s.regs.resetDone = true → s.sample.wbAck = true →
    (∃ t, exec (.wbWrite addr data) s = .next t ∧
      t.regs = { s.regs.noRsp with
        err := { code := .protocolPrecondition, op := 0b010#3, addr := addr, elapsed := 0#32 }
        ctl := .halted } ∧
      t.history = s.history ++ [.error 0b010#3 addr .protocolPrecondition 0#32]) ∧
    (∃ t, exec (.wbRead addr) s = .next t ∧
      t.regs = { s.regs.noRsp with
        err := { code := .protocolPrecondition, op := 0b011#3, addr := addr, elapsed := 0#32 }
        ctl := .halted } ∧
      t.history = s.history ++ [.error 0b011#3 addr .protocolPrecondition 0#32])

/-- R126: the ack-rise wait step: every register after it. -/
def Obligations.AckRiseWaitEdge : Prop :=
  ∀ s : State, s.sample.por = false → s.Live → (s.regs.ctl = .requestAsserted ∨ s.regs.ctl = .awaitAckRise) →
    ∃ t, step s = .next t ∧
      t.regs = if s.sample.wbAck = true then
          { s.regs.noRsp with
            rdata := if s.regs.txnOp = 0b011#3 then s.sample.wbDatOut else s.regs.rdata
            bus := { s.regs.bus with stb := false, cyc := false, sel := 0b0000#4, datIn := 0#32, adr := 0#32 }
            cnt := 0#32, ctl := .awaitAckFall }
        else if s.regs.cnt.toNat + 1 = s.params.ackTimeout.val then
          { s.regs.noRsp with
            err := { code := .ackTimeout, op := s.regs.txnOp, addr := s.regs.txnAddr,
                     elapsed := s.regs.cnt + 1#32 }
            ctl := .halted }
        else { s.regs.noRsp with cnt := s.regs.cnt + 1#32, ctl := .awaitAckRise }

/-- R131: the ack-fall wait step: every register after it. -/
def Obligations.AckFallWaitEdge : Prop :=
  ∀ s : State, s.sample.por = false → s.Live → s.regs.ctl = .awaitAckFall →
    ∃ t, step s = .next t ∧
      t.regs = if s.sample.wbAck = false then
          { s.regs with
            cnt := 0#32, ctl := .idle
            rsp := if s.regs.txnOp = 0b011#3 then { valid := true, op := 0b011#3, data := s.regs.rdata }
              else { valid := true, op := 0b010#3, data := 0#32 } }
        else if s.regs.cnt.toNat + 1 = s.params.ackTimeout.val then
          { s.regs.noRsp with
            err := { code := .ackNotReleased, op := s.regs.txnOp, addr := s.regs.txnAddr,
                     elapsed := s.regs.cnt + 1#32 }
            ctl := .halted }
        else { s.regs.noRsp with cnt := s.regs.cnt + 1#32 }

/-- WB_WRITE completes k + j edges after its accept edge, for every rise-wait length k and fall-wait length j
from 1 to N, the last permitted edges included; everything it changes. The record's form is the model's reading
of R78 (log entry 7). -/
def Obligations.WbWriteCompletes : Prop :=
  ∀ (s : State) (addr data : Word) (k j : Nat), s.Accepting → s.regs.resetDone = true →
    1 ≤ k → k ≤ s.params.ackTimeout.val → 1 ≤ j → j ≤ s.params.ackTimeout.val →
    s.PorLow (k + j + 1) →
    (∀ i, i < k → (s.sampleAt i).wbAck = false) →
    (∀ i, k ≤ i → i < k + j → (s.sampleAt i).wbAck = true) →
    (s.sampleAt (k + j)).wbAck = false →
    ∃ u t, exec (.wbWrite addr data) s = .next u ∧ runEdges (k + j) u = .next t ∧
      t.regs = { s.regs with
        ctl := .idle, cnt := 0#32, txnOp := 0b010#3, txnAddr := addr
        bus := { stb := false, cyc := false, we := true, sel := 0#4, adr := 0#32, datIn := 0#32 }
        rsp := { valid := true, op := 0b010#3, data := 0#32 } } ∧
      t.edge = s.edge + k + j + 1 ∧ t.ci = s.ci + 1 ∧ t.flight = none ∧
      t.history = s.history ++ [.bus 0b010#3 addr data 0#32 s.edge k j] ∧
      t.responses = s.responses ++ [(0b010#3, 0#32)]

/-- WB_READ completes in the same way and returns the word the DUT drove at the rise edge. The record's form is
the model's reading of R78 (log entry 7). -/
def Obligations.WbReadCompletes : Prop :=
  ∀ (s : State) (addr : Word) (k j : Nat), s.Accepting → s.regs.resetDone = true →
    1 ≤ k → k ≤ s.params.ackTimeout.val → 1 ≤ j → j ≤ s.params.ackTimeout.val →
    s.PorLow (k + j + 1) →
    (∀ i, i < k → (s.sampleAt i).wbAck = false) →
    (∀ i, k ≤ i → i < k + j → (s.sampleAt i).wbAck = true) →
    (s.sampleAt (k + j)).wbAck = false →
    ∃ u t, exec (.wbRead addr) s = .next u ∧ runEdges (k + j) u = .next t ∧
      t.regs = { s.regs with
        ctl := .idle, cnt := 0#32, txnOp := 0b011#3, txnAddr := addr, rdata := (s.sampleAt k).wbDatOut
        bus := { stb := false, cyc := false, we := false, sel := 0#4, adr := 0#32, datIn := 0#32 }
        rsp := { valid := true, op := 0b011#3, data := (s.sampleAt k).wbDatOut } } ∧
      t.edge = s.edge + k + j + 1 ∧ t.ci = s.ci + 1 ∧ t.flight = none ∧
      t.history = s.history ++ [.bus 0b011#3 addr 0#32 (s.sampleAt k).wbDatOut s.edge k j] ∧
      t.responses = s.responses ++ [(0b011#3, (s.sampleAt k).wbDatOut)]

/-- While the acknowledge stays low the request stays driven with the command's operands, at every edge of the
rise wait. -/
def Obligations.WbWriteRequestHeldUntilAcknowledged : Prop :=
  ∀ (s : State) (addr data : Word) (n : Nat), s.Accepting → s.regs.resetDone = true →
    n < s.params.ackTimeout.val → s.PorLow (n + 1) → (∀ i, i < n + 1 → (s.sampleAt i).wbAck = false) →
    ∃ u t, exec (.wbWrite addr data) s = .next u ∧ runEdges n u = .next t ∧
      t.regs.bus = { stb := true, cyc := true, we := true, sel := 0b1111#4, adr := addr, datIn := data } ∧
      t.regs.busy = true

/-- AckTimeout: no acknowledge at N edges raises it at the N-th, never earlier, and the request stays
driven. -/
def Obligations.NoAcknowledgeRaisesAckTimeoutAtN : Prop :=
  ∀ (s : State) (addr data : Word), s.Accepting → s.regs.resetDone = true →
    s.PorLow (s.params.ackTimeout.val + 1) →
    (∀ i, i < s.params.ackTimeout.val + 1 → (s.sampleAt i).wbAck = false) →
    (∃ u, exec (.wbWrite addr data) s = .next u ∧
      (∀ n, n < s.params.ackTimeout.val → ∃ t, runEdges n u = .next t ∧ t.regs.halted = false) ∧
      ∃ t, runEdges s.params.ackTimeout.val u = .next t ∧
        t.regs = { s.regs.noRsp with
          ctl := .halted, cnt := BitVec.ofNat 32 (s.params.ackTimeout.val - 1), txnOp := 0b010#3, txnAddr := addr
          bus := { stb := true, cyc := true, we := true, sel := 0b1111#4, adr := addr, datIn := data }
          err := { code := .ackTimeout, op := 0b010#3, addr := addr,
                   elapsed := BitVec.ofNat 32 s.params.ackTimeout.val } }) ∧
    (∃ u, exec (.wbRead addr) s = .next u ∧
      (∀ n, n < s.params.ackTimeout.val → ∃ t, runEdges n u = .next t ∧ t.regs.halted = false) ∧
      ∃ t, runEdges s.params.ackTimeout.val u = .next t ∧
        t.regs = { s.regs.noRsp with
          ctl := .halted, cnt := BitVec.ofNat 32 (s.params.ackTimeout.val - 1), txnOp := 0b011#3, txnAddr := addr
          bus := { s.regs.bus with stb := true, cyc := true, we := false, sel := 0b1111#4, adr := addr }
          err := { code := .ackTimeout, op := 0b011#3, addr := addr,
                   elapsed := BitVec.ofNat 32 s.params.ackTimeout.val } })

/-- AckNotReleased: an acknowledge held for N edges after the rise edge raises it at the N-th, never earlier,
with the bus idle and no response. The event in the record is the model's reading of R78 (log entry 7). -/
def Obligations.HeldAcknowledgeRaisesAckNotReleasedAtN : Prop :=
  ∀ (s : State) (addr data : Word) (k : Nat), s.Accepting → s.regs.resetDone = true →
    1 ≤ k → k ≤ s.params.ackTimeout.val → s.PorLow (k + s.params.ackTimeout.val + 1) →
    (∀ i, i < k → (s.sampleAt i).wbAck = false) →
    (∀ i, k ≤ i → i < k + s.params.ackTimeout.val + 1 → (s.sampleAt i).wbAck = true) →
    (∃ u t, exec (.wbWrite addr data) s = .next u ∧
      (∀ n, n < k + s.params.ackTimeout.val → ∃ v, runEdges n u = .next v ∧ v.regs.halted = false) ∧
      runEdges (k + s.params.ackTimeout.val) u = .next t ∧
      t.regs = { s.regs.noRsp with
        ctl := .halted, cnt := BitVec.ofNat 32 (s.params.ackTimeout.val - 1), txnOp := 0b010#3, txnAddr := addr
        bus := { stb := false, cyc := false, we := true, sel := 0#4, adr := 0#32, datIn := 0#32 }
        err := { code := .ackNotReleased, op := 0b010#3, addr := addr,
                 elapsed := BitVec.ofNat 32 s.params.ackTimeout.val } } ∧
      t.history = s.history ++ [.error 0b010#3 addr .ackNotReleased (BitVec.ofNat 32 s.params.ackTimeout.val)] ∧
      t.responses = s.responses) ∧
    (∃ u t, exec (.wbRead addr) s = .next u ∧
      (∀ n, n < k + s.params.ackTimeout.val → ∃ v, runEdges n u = .next v ∧ v.regs.halted = false) ∧
      runEdges (k + s.params.ackTimeout.val) u = .next t ∧
      t.regs = { s.regs.noRsp with
        ctl := .halted, cnt := BitVec.ofNat 32 (s.params.ackTimeout.val - 1), txnOp := 0b011#3, txnAddr := addr
        rdata := (s.sampleAt k).wbDatOut
        bus := { stb := false, cyc := false, we := false, sel := 0#4, adr := 0#32, datIn := 0#32 }
        err := { code := .ackNotReleased, op := 0b011#3, addr := addr,
                 elapsed := BitVec.ofNat 32 s.params.ackTimeout.val } } ∧
      t.history = s.history ++ [.error 0b011#3 addr .ackNotReleased (BitVec.ofNat 32 s.params.ackTimeout.val)] ∧
      t.responses = s.responses)

/-! ### SPI_EXCHANGE (`42_serial.md`) -/

/-- R152: the SPI_EXCHANGE accept edge, whatever `reset_done` is: every register after it. -/
def Obligations.SpiAcceptEdge : Prop :=
  ∀ (s : State) (value : Half), s.Accepting →
    ∃ t, exec (.spiExchange value) s = .next t ∧
      t.regs = { s.regs.noRsp with
        shreg := value, rxacc := 0x0000#16, bitcnt := 16#5, link := { s.regs.link with csN := false }
        cnt := 0#32, ctl := .spiCsSetup }

/-- R153: the SPI_CS_SETUP step: every register after it. -/
def Obligations.SpiCsSetupEdge : Prop :=
  ∀ s : State, s.sample.por = false → s.Live → s.regs.ctl = .spiCsSetup →
    ∃ t, step s = .next t ∧
      t.regs = (if s.regs.cnt.toNat + 1 = s.params.settle.val then
        { s.regs.noRsp with
          link := { s.regs.link with mosi := s.regs.shreg.getLsbD 15, sclk := true }, cnt := 0#32
          ctl := .spiBitHigh }
      else { s.regs.noRsp with cnt := s.regs.cnt + 1#32 })

/-- R154: the SPI_BIT_HIGH step: every register after it. -/
def Obligations.SpiBitHighEdge : Prop :=
  ∀ s : State, s.sample.por = false → s.Live → s.regs.ctl = .spiBitHigh →
    ∃ t, step s = .next t ∧
      t.regs = (if s.regs.cnt.toNat + 1 = s.params.settle.val then
        { s.regs.noRsp with
          rxacc := (s.regs.rxacc <<< 1) ||| (if s.sample.spiMiso = true then 1#16 else 0#16)
          link := { s.regs.link with sclk := false }, shreg := s.regs.shreg <<< 1
          bitcnt := s.regs.bitcnt - 1#5, cnt := 0#32, ctl := .spiBitLow }
      else { s.regs.noRsp with cnt := s.regs.cnt + 1#32 })

/-- R155: the SPI_BIT_LOW step: every register after it. -/
def Obligations.SpiBitLowEdge : Prop :=
  ∀ s : State, s.sample.por = false → s.Live → s.regs.ctl = .spiBitLow →
    ∃ t, step s = .next t ∧
      t.regs = (if s.regs.cnt.toNat + 1 = s.params.settle.val then
        if 0 < s.regs.bitcnt.toNat then
          { s.regs.noRsp with
            link := { s.regs.link with mosi := s.regs.shreg.getLsbD 15, sclk := true }, cnt := 0#32
            ctl := .spiBitHigh }
        else { s.regs.noRsp with cnt := 0#32, ctl := .spiTail }
      else { s.regs.noRsp with cnt := s.regs.cnt + 1#32 })

/-- R156: the SPI_TAIL step: every register after it. -/
def Obligations.SpiTailEdge : Prop :=
  ∀ s : State, s.sample.por = false → s.Live → s.regs.ctl = .spiTail →
    ∃ t, step s = .next t ∧
      t.regs = if s.regs.cnt.toNat + 1 = s.params.settle.val then
          { s.regs with
            link := { s.regs.link with csN := true }, cnt := 0#32, ctl := .idle
            rsp := { valid := true, op := 0b100#3, data := s.regs.rxacc.setWidth 32 } }
        else { s.regs.noRsp with cnt := s.regs.cnt + 1#32 }

/-- SPI_EXCHANGE completes 34 S edges after its accept edge and returns the 16 bits sampled at the sample
edges, the first in bit 15; everything it changes. The record's form is the model's reading of R78 (log
entry 7). -/
def Obligations.SpiExchangeCompletesWithReceivedBits : Prop :=
  ∀ (s : State) (value : Half), s.Accepting → s.PorLow (34 * s.params.settle.val + 1) →
    ∃ (u t : State) (rx : Half), exec (.spiExchange value) s = .next u ∧
      runEdges (34 * s.params.settle.val) u = .next t ∧
      (∀ b, b < 16 → rx.getLsbD (15 - b) =
        (s.sampleAt (2 * s.params.settle.val + 2 * b * s.params.settle.val)).spiMiso) ∧
      t.regs = { s.regs with
        ctl := .idle, cnt := 0#32, bitcnt := 0#5, shreg := 0#16, rxacc := rx
        link := { csN := true, sclk := false, mosi := value.getLsbD 0 }
        rsp := { valid := true, op := 0b100#3, data := rx.setWidth 32 } } ∧
      t.edge = s.edge + 34 * s.params.settle.val + 1 ∧ t.ci = s.ci + 1 ∧ t.flight = none ∧
      t.history = s.history ++ [.spi value rx s.edge] ∧
      t.responses = s.responses ++ [(0b100#3, rx.setWidth 32)]

/-- At the sample edge of bit b master-out shows bit 15 − b of the value and the serial clock is high: the bit
sent and the bit received share one clock pulse. -/
def Obligations.SpiBitSentAtItsSampleEdge : Prop :=
  ∀ (s : State) (value : Half) (b : Nat), s.Accepting → b < 16 →
    s.PorLow (2 * s.params.settle.val + 2 * b * s.params.settle.val) →
    ∃ u t, exec (.spiExchange value) s = .next u ∧
      runEdges (2 * s.params.settle.val + 2 * b * s.params.settle.val - 1) u = .next t ∧
      t.regs.link = { csN := false, sclk := true, mosi := value.getLsbD (15 - b) } ∧
      t.regs.ctl = .spiBitHigh ∧ t.regs.cnt.toNat + 1 = s.params.settle.val

/-! ### Errors and HALTED (`60_exceptions.md`) -/

/-- Every entry into HALTED takes one of the three errors, records it, and assigns no bus or serial output,
`cnt`, `rdata`, `rsp_op` or `rsp_data`; `rsp_valid` becomes 0. The event in the record is the model's reading
of R78 (log entry 7). -/
def Obligations.EnteringHaltedRecordsAnErrorAndKeepsOutputs : Prop :=
  ∀ s t : State, step s = .next t → s.regs.ctl ≠ .halted → t.regs.ctl = .halted →
    ∃ code, (code = .protocolPrecondition ∨ code = .ackTimeout ∨ code = .ackNotReleased) ∧
      ∃ (op : OpCode) (addr elapsed : Word),
        t.regs = { s.regs with
          ctl := .halted, err := { code := code, op := op, addr := addr, elapsed := elapsed }
          rsp := { s.regs.rsp with valid := false } } ∧
        t.history = s.history ++ [.error op addr code elapsed] ∧
        t.responses = s.responses ∧ t.flight = none

/-- R177: in HALTED, at every edge with `por` low, `rsp_valid` becomes 0 and no other register changes, for any
number of edges, whatever is presented and whatever the DUT drives; no command is accepted; a POR edge leaves
HALTED and clears the error context. -/
def Obligations.HaltedIsSticky : Prop :=
  ∀ s : State, s.regs.ctl = .halted → s.Live →
    s.regs.cmdReady = false ∧ s.regs.halted = true ∧
    (∀ n : Nat, s.PorLow (n + 1) →
      ∃ t, runEdges (n + 1) s = .next t ∧ t.regs = s.regs.noRsp ∧ t.ci = s.ci) ∧
    (s.sample.por = true → ∃ t, step s = .next t ∧ t.regs.ctl = .idle ∧
      t.regs.err = { code := .none, op := 0#3, addr := 0#32, elapsed := 0#32 })

/-- A state with a reserved `ctl` or `err_code` code has no step without POR; every other state is never
stuck. -/
def Obligations.StuckExactlyOnReservedCodes : Prop :=
  ∀ s : State, (∃ f, step s = .fault f) ↔
    s.sample.por = false ∧ ((∃ k, s.regs.err.code = .reserved k) ∨ (∃ k, s.regs.ctl = .reserved k))

/-! ### Response, flags and STATUS (`10_state.md` R37 to R40) -/

/-- An edge either responds, which it does only when it returns to IDLE and lists the response, or leaves
`rsp_valid` 0 and, unless it is a POR edge, `rsp_op` and `rsp_data` as they were. -/
def Obligations.ResponseIsValidOnlyAfterACompletionEdge : Prop :=
  ∀ s t : State, step s = .next t →
    (t.regs.rsp.valid = true ∧ s.regs.busy = true ∧ t.regs.ctl = .idle ∧
      t.responses = s.responses ++ [(t.regs.rsp.op, t.regs.rsp.data)]) ∨
    (t.regs.rsp.valid = false ∧ t.responses = s.responses ∧
      (s.sample.por = false → t.regs.rsp = { s.regs.rsp with valid := false }))

/-- The STATUS word's fields. -/
def Obligations.StatusWordFields : Prop :=
  ∀ r : Regs, r.status.extractLsb' 0 4 = ctlCode r.ctl ∧ r.status.extractLsb' 4 3 = errNumber r.err.code ∧
    r.status.getLsbD 7 = r.resetDone ∧ r.status.extractLsb' 8 3 = r.err.op ∧
    r.status.extractLsb' 11 5 = r.bitcnt ∧ r.status.extractLsb' 16 16 = 0#16

/-- The codes of `ctl` and of `err_code` by name, the reserved ones included, and no two names of either share
a code. -/
def Obligations.StateAndErrorCodes : Prop :=
  ctlCode .idle = 0#4 ∧ ctlCode .requestAsserted = 1#4 ∧ ctlCode .awaitAckRise = 2#4 ∧
  ctlCode .awaitAckFall = 3#4 ∧ ctlCode .rstAssert = 4#4 ∧ ctlCode .rstRelease = 5#4 ∧
  ctlCode .spiCsSetup = 6#4 ∧ ctlCode .spiBitHigh = 7#4 ∧ ctlCode .spiBitLow = 8#4 ∧
  ctlCode .spiTail = 9#4 ∧ ctlCode .halted = 15#4 ∧
  (∀ k : Fin 5, (ctlCode (.reserved k)).toNat = 10 + k.val) ∧
  errNumber .none = 0#3 ∧ errNumber .protocolPrecondition = 1#3 ∧ errNumber .ackTimeout = 2#3 ∧
  errNumber .ackNotReleased = 3#3 ∧ (∀ k : Fin 4, (errNumber (.reserved k)).toNat = 4 + k.val) ∧
  (∀ c d : Ctl, ctlCode c = ctlCode d → c = d) ∧ (∀ c d : ErrCode, errNumber c = errNumber d → c = d)

/-! ### Frames (`10_state.md` R47, `20_memory.md` R72) -/

/-- The frame of RESET, at its accept edge and in its two phases: no serial register or output, read data,
latch, error context or write-enable is written. -/
def Obligations.ResetFrame : Prop :=
  ∀ s t : State, exec .reset s = .next t → s.sample.por = false →
    (s.regs.ctl = .idle ∨ s.regs.ctl = .rstAssert ∨ s.regs.ctl = .rstRelease) →
    t.regs.bitcnt = s.regs.bitcnt ∧ t.regs.shreg = s.regs.shreg ∧ t.regs.rxacc = s.regs.rxacc ∧
    t.regs.rdata = s.regs.rdata ∧ t.regs.txnOp = s.regs.txnOp ∧ t.regs.txnAddr = s.regs.txnAddr ∧
    t.regs.err = s.regs.err ∧ t.regs.bus.we = s.regs.bus.we ∧ t.regs.link = s.regs.link ∧
    t.params = s.params ∧ t.program = s.program ∧ (s.regs.resetDone = true → t.regs.resetDone = true)

/-- The frame of WB_WRITE and WB_READ, at their accept edge and in their waits: no serial register or output,
`reset_done` or `dut_rst` is written; `rdata` only by WB_READ at the rise edge of its rise wait; the error
context only on the way to HALTED. -/
def Obligations.WbFrame : Prop :=
  ∀ (i : Instr) (s t : State), exec i s = .next t → s.sample.por = false →
    ((∃ addr data, i = .wbWrite addr data) ∨ (∃ addr, i = .wbRead addr)) →
    (s.regs.ctl = .idle ∨ s.regs.ctl = .requestAsserted ∨ s.regs.ctl = .awaitAckRise ∨
      s.regs.ctl = .awaitAckFall) →
    t.regs.bitcnt = s.regs.bitcnt ∧ t.regs.shreg = s.regs.shreg ∧ t.regs.rxacc = s.regs.rxacc ∧
    t.regs.resetDone = s.regs.resetDone ∧ t.regs.dutRst = s.regs.dutRst ∧ t.regs.link = s.regs.link ∧
    t.params = s.params ∧ t.program = s.program ∧
    (t.regs.rdata = s.regs.rdata ∨
      ((s.regs.ctl = .requestAsserted ∨ s.regs.ctl = .awaitAckRise) ∧ s.regs.txnOp = 0b011#3 ∧
        s.sample.wbAck = true ∧ t.regs.ctl = .awaitAckFall ∧ t.regs.rdata = s.sample.wbDatOut)) ∧
    (t.regs.err = s.regs.err ∨ t.regs.ctl = .halted)

/-- The frame of SPI_EXCHANGE, at its accept edge and in its phases: no bus output, read data, latch, error
context, `reset_done` or `dut_rst` is written. -/
def Obligations.SpiFrame : Prop :=
  ∀ (value : Half) (s t : State), exec (.spiExchange value) s = .next t → s.sample.por = false →
    (s.regs.ctl = .idle ∨ s.regs.ctl = .spiCsSetup ∨ s.regs.ctl = .spiBitHigh ∨ s.regs.ctl = .spiBitLow ∨
      s.regs.ctl = .spiTail) →
    t.regs.rdata = s.regs.rdata ∧ t.regs.txnOp = s.regs.txnOp ∧ t.regs.txnAddr = s.regs.txnAddr ∧
    t.regs.err = s.regs.err ∧ t.regs.resetDone = s.regs.resetDone ∧ t.regs.bus = s.regs.bus ∧
    t.regs.dutRst = s.regs.dutRst ∧ t.params = s.params ∧ t.program = s.program

/-! ### What a command does not read (`40_clock_reset.md` R109, `41_wishbone.md` R122, `42_serial.md` R160) -/

/-- RESET and SPI_EXCHANGE read neither the acknowledge nor the read data: other values of those lines give
the same outcome, at the accept edge and in every phase. -/
def Obligations.ResetAndSpiIgnoreTheBusLines : Prop :=
  ∀ (s : State) (value : Half) (ack : Bool) (dat : Word),
    s.regs.ctl ≠ .requestAsserted → s.regs.ctl ≠ .awaitAckRise → s.regs.ctl ≠ .awaitAckFall →
    exec .reset (s.withBusLines ack dat) = exec .reset s ∧
    exec (.spiExchange value) (s.withBusLines ack dat) = exec (.spiExchange value) s

/-- RESET and the WB commands never read `spi_miso`: another value of it gives the same outcome. -/
def Obligations.ResetAndWbIgnoreMiso : Prop :=
  ∀ (s : State) (addr data : Word) (miso : Bool), s.regs.ctl ≠ .spiBitHigh →
    exec .reset (s.withMiso miso) = exec .reset s ∧
    exec (.wbWrite addr data) (s.withMiso miso) = exec (.wbWrite addr data) s ∧
    exec (.wbRead addr) (s.withMiso miso) = exec (.wbRead addr) s

/-! ### The whole machine -/

/-- Every edge keeps the invariant: the bus idle exactly when it must be, at most one request outstanding, the
serial levels, the counters within their phases, the error context, and the timeline of the command in
progress. -/
def Obligations.EveryStepKeepsTheInvariant : Prop :=
  ∀ s t : State, s.Inv → step s = .next t → t.Inv

/-- The invariant holds at reset and at `launch_clean`, with any parameters, program and agents. -/
def Obligations.LaunchMeetsTheInvariant : Prop :=
  State.reset.Inv ∧ ∀ (p : Params) (prog : List CmdWord) (xs : List Sample), (State.launchClean p prog xs).Inv

/-- In every run from `launch_clean`, whenever the block is IDLE its bus is idle; and strobe or cycle is 1 only
while a request is being made or after an AckTimeout. -/
def Obligations.RunsKeepTheBusIdleBetweenRequests : Prop :=
  ∀ (p : Params) (prog : List CmdWord) (xs : List Sample) (n : Nat) (t : State),
    runEdges n (State.launchClean p prog xs) = .next t →
    (t.regs.ctl = .idle → t.regs.bus.stb = false ∧ t.regs.bus.cyc = false ∧ t.regs.bus.sel = 0#4 ∧
      t.regs.bus.adr = 0#32 ∧ t.regs.bus.datIn = 0#32) ∧
    (t.regs.bus.stb = true ∨ t.regs.bus.cyc = true →
      t.regs.ctl = .requestAsserted ∨ t.regs.ctl = .awaitAckRise ∨
        (t.regs.ctl = .halted ∧ t.regs.err.code = .ackTimeout)) ∧
    (t.regs.ctl = .requestAsserted ∨ t.regs.ctl = .awaitAckRise →
      t.regs.bus.stb = true ∧ t.regs.bus.cyc = true ∧ t.regs.bus.sel = 0b1111#4)

/-- No hang: at every edge without `por` a command in progress comes nearer its bound, so every command
completes or fails within it. -/
def Obligations.EveryBusyEdgeComesNearerCompletion : Prop :=
  ∀ s t : State, s.Inv → s.regs.busy = true → s.sample.por = false → step s = .next t →
    t.regs.remaining t.params < s.regs.remaining s.params

/-- The record only grows, by at most one event an edge, and only at the edge at which the command in progress
completes or at which HALTED is entered (the model's reading of R78, log entry 7). -/
def Obligations.RecordGrowsByCompletionsAndErrors : Prop :=
  ∀ s t : State, step s = .next t →
    t.history = s.history ∨
    ∃ e, t.history = s.history ++ [e] ∧ t.flight = none ∧ s.sample.por = false ∧
      ((s.regs.busy = true ∧ t.regs.rsp.valid = true ∧ t.regs.ctl = .idle) ∨
        (s.regs.ctl ≠ .halted ∧ t.regs.ctl = .halted))

/-! ### Parameters and the sequencing layer -/

/-- The timeout's edge count covers the time bound, and one edge fewer would not. -/
def Obligations.TimeoutCyclesAreTheLeastThatCoverTheBound : Prop :=
  ∀ time period : Nat, 0 < time → 0 < period →
    time ≤ Config.timeOf (Config.timeoutCyclesOf time period) period ∧
    Config.timeOf (Config.timeoutCyclesOf time period - 1) period < time

/-- `SET_OE io` writes the low half and then the high half of `1 << io`, each half independently zero
otherwise, for every pin. -/
def Obligations.SetOeWritesOneBitAcrossTwoHalves : Prop :=
  ∀ (q : SeqParams) (io : Nat), io < q.numPins.val →
    ∃ lo hi : Word, assemble q (.setOe io) = some [.wbWrite q.oeLoAddr lo, .wbWrite q.oeHiAddr hi] ∧
      (hi ++ lo).cast (show 32 + 32 = 64 from rfl) = 1#64 <<< io

/-! ### The end of a run (`70_reset_and_hazards.md` R213) -/

/-- The bookkeeping of a run's end (log entry 19) holds at reset and at `launch_clean`, and every edge keeps
it. -/
def Obligations.EveryStepKeepsTheTally : Prop :=
  State.reset.Tally ∧ (∀ (p : Params) (prog : List CmdWord) (xs : List Sample), (State.launchClean p prog xs).Tally) ∧
  ∀ s t : State, s.Tally → step s = .next t → t.Tally

/-- The edge at which the last command completes, in a run that has not failed, ends the run, and the run's
result is the responses with this one and the registers. How the state tells that the last command has completed
is the model's (log entry 19). -/
def Obligations.CompletionOfTheLastCommandEndsTheRun : Prop :=
  ∀ s t : State, step s = .next t → s.ci = s.program.length → s.hasFailed = false → t.regs.rsp.valid = true →
    t.Ended ∧ t.result = (s.responses ++ [(t.regs.rsp.op, t.regs.rsp.data)], t.regs)

/-- A run never ends after it has reached HALTED, POR or not, and never after a POR edge has abandoned its last
command (that POR keeps the record is the model's choice, log entry 14). -/
def Obligations.FailedOrAbandonedRunNeverEnds : Prop :=
  ∀ (s t : State) (n : Nat), s.Tally → runEdges n s = .next t →
    (s.regs.ctl = .halted → ¬ t.Ended) ∧ (s.hasFailed = true → ¬ t.Ended) ∧
    (s.ci = s.program.length → s.regs.busy = true → s.sample.por = true → ¬ t.Ended)

/-- A run from `launch_clean` of a program with a command ends at a completion edge, the one whose response is
the last of its result; a run of the empty program has ended at `launch_clean`. -/
def Obligations.RunEndsAtACompletionEdge : Prop :=
  ∀ (p : Params) (prog : List CmdWord) (xs : List Sample),
    (prog = [] → (State.launchClean p prog xs).EndsAfter 0 (State.launchClean p prog xs)) ∧
    ∀ (n : Nat) (t : State), prog ≠ [] → (State.launchClean p prog xs).EndsAfter n t →
      ∃ (m : Nat) (u : State), n = m + 1 ∧ runEdges m (State.launchClean p prog xs) = .next u ∧
        u.regs.busy = true ∧ t.regs.rsp.valid = true ∧
        t.result = (u.responses ++ [(t.regs.rsp.op, t.regs.rsp.data)], t.regs)

/-- A run from `launch_clean` that ends without a further POR edge has one response per command. -/
def Obligations.EndedRunHasOneResponsePerCommand : Prop :=
  ∀ (p : Params) (prog : List CmdWord) (xs : List Sample) (n : Nat) (t : State),
    (State.launchClean p prog xs).PorLow n → runEdges n (State.launchClean p prog xs) = .next t → t.Ended →
    t.result.1.length = prog.length
end

