-- ==== Sys2Proof/Laws/Encoding.lean ====
section
/-! SUPPORT. The fields of a command word: reading back what was written, and which opcodes decode. -/

namespace Sys2Proof

/-- The fields read from the word of three fields are those fields. -/
@[simp] theorem cmdOfWord_wordOfCmd (c : Cmd) : cmdOfWord (wordOfCmd c) = c := by
  obtain ⟨o, a, d⟩ := c
  simp only [cmdOfWord, wordOfCmd, fieldOp, fieldAddr, fieldData, Cmd.mk.injEq]
  refine ⟨?_, ?_, ?_⟩ <;> ext i hi <;> simp <;> (try grind)

@[simp] theorem fieldOp_wordOfCmd (c : Cmd) : fieldOp (wordOfCmd c) = c.op :=
  congrArg Cmd.op (cmdOfWord_wordOfCmd c)

@[simp] theorem fieldAddr_wordOfCmd (c : Cmd) : fieldAddr (wordOfCmd c) = c.addr :=
  congrArg Cmd.addr (cmdOfWord_wordOfCmd c)

@[simp] theorem fieldData_wordOfCmd (c : Cmd) : fieldData (wordOfCmd c) = c.data :=
  congrArg Cmd.data (cmdOfWord_wordOfCmd c)

/-- Decoding a word made from three fields is decoding the fields. -/
theorem decode_wordOfCmd (c : Cmd) : decode (wordOfCmd c) = decodeCmd c := by
  rw [decode, cmdOfWord_wordOfCmd]

/-- Writing back the fields read from a word gives the word. -/
theorem wordOfCmd_cmdOfWord (w : CmdWord) : wordOfCmd (cmdOfWord w) = w := by
  ext i hi
  simp only [cmdOfWord, wordOfCmd, fieldOp, fieldAddr, fieldData]
  simp
  grind

/-- The fields are well formed exactly when they decode to a command. -/
theorem wellFormed_iff_decodes (c : Cmd) : c.wellFormed = true ↔ ∃ i, decodeCmd c = .instr i := by
  obtain ⟨o, a, d⟩ := c
  simp only [Cmd.wellFormed, decodeCmd, opReset, opWbWrite, opWbRead, opSpiExchange]
  by_cases h1 : o = 1#3
  · simp [h1]
  by_cases h2 : o = 2#3
  · simp [h2]
  by_cases h3 : o = 3#3
  · simp [h3]
  by_cases h4 : o = 4#3
  · simp [h4]
  simp [h1, h2, h3, h4]

end Sys2Proof
end

