-- ==== Sys2Proof/Laws/PerInstr.lean ====
section
/-! SUPPORT. Statements for all commands, made command by command: the family `EncodeWellFormed` says that a
command's encoding is well formed and carries the command's own opcode. -/

namespace Sys2Proof.Laws

open Sys2Proof

/-- The encoding of `i` has legal fields, and its opcode field holds `i`'s opcode (`30_encoding.md` R81,
R82). -/
def EncodeWellFormed.Statement (i : Instr) : Prop :=
  (encodeCmd i).wellFormed = true ∧ fieldOp (encode i) = opcodeOf i

theorem EncodeWellFormed.reset : EncodeWellFormed.Statement .reset :=
  ⟨rfl, fieldOp_wordOfCmd _⟩

theorem EncodeWellFormed.wbWrite (addr data : Word) : EncodeWellFormed.Statement (.wbWrite addr data) :=
  ⟨rfl, fieldOp_wordOfCmd _⟩

theorem EncodeWellFormed.wbRead (addr : Word) : EncodeWellFormed.Statement (.wbRead addr) :=
  ⟨rfl, fieldOp_wordOfCmd _⟩

theorem EncodeWellFormed.spiExchange (value : Half) : EncodeWellFormed.Statement (.spiExchange value) :=
  ⟨rfl, fieldOp_wordOfCmd _⟩

end Sys2Proof.Laws
end

