-- ==== Sys2Proof/Laws/State.lean ====
section
/-! SUPPORT. One lemma per field of State per update of `Machine/Ops.lean`: the value of a field an update
writes, and that every other field is as it was. -/

namespace Sys2Proof.Machine

open Sys2Proof

variable (s : State)

@[simp] theorem State.tick_params : (s.tick).params = s.params := rfl
@[simp] theorem State.tick_regs :
    (s.tick).regs =
      { s.regs with rsp := { s.regs.rsp with valid := false } } := rfl
@[simp] theorem State.tick_edge : (s.tick).edge = s.edge + 1 := rfl
@[simp] theorem State.tick_program : (s.tick).program = s.program := rfl
@[simp] theorem State.tick_ci : (s.tick).ci = s.ci := rfl
@[simp] theorem State.tick_inputs : (s.tick).inputs = s.inputs.tail := rfl
@[simp] theorem State.tick_flight : (s.tick).flight = s.flight := rfl
@[simp] theorem State.tick_history : (s.tick).history = s.history := rfl
@[simp] theorem State.tick_responses : (s.tick).responses = s.responses := rfl
@[simp] theorem State.tick_completed : (s.tick).completed = s.completed := rfl

@[simp] theorem State.powerOn_params : (s.powerOn).params = s.params := rfl
@[simp] theorem State.powerOn_regs : (s.powerOn).regs = Regs.por := rfl
@[simp] theorem State.powerOn_edge : (s.powerOn).edge = s.edge := rfl
@[simp] theorem State.powerOn_program : (s.powerOn).program = s.program := rfl
@[simp] theorem State.powerOn_ci : (s.powerOn).ci = s.ci := rfl
@[simp] theorem State.powerOn_inputs : (s.powerOn).inputs = s.inputs := rfl
@[simp] theorem State.powerOn_flight : (s.powerOn).flight = none := rfl
@[simp] theorem State.powerOn_history : (s.powerOn).history = s.history := rfl
@[simp] theorem State.powerOn_responses : (s.powerOn).responses = s.responses := rfl
@[simp] theorem State.powerOn_completed : (s.powerOn).completed = s.completed := rfl

@[simp] theorem State.advanceCi_params : (s.advanceCi).params = s.params := rfl
@[simp] theorem State.advanceCi_regs : (s.advanceCi).regs = s.regs := rfl
@[simp] theorem State.advanceCi_edge : (s.advanceCi).edge = s.edge := rfl
@[simp] theorem State.advanceCi_program : (s.advanceCi).program = s.program := rfl
@[simp] theorem State.advanceCi_ci : (s.advanceCi).ci = s.ci + 1 := rfl
@[simp] theorem State.advanceCi_inputs : (s.advanceCi).inputs = s.inputs := rfl
@[simp] theorem State.advanceCi_flight : (s.advanceCi).flight = s.flight := rfl
@[simp] theorem State.advanceCi_history : (s.advanceCi).history = s.history := rfl
@[simp] theorem State.advanceCi_responses : (s.advanceCi).responses = s.responses := rfl
@[simp] theorem State.advanceCi_completed : (s.advanceCi).completed = s.completed := rfl

@[simp] theorem State.launch_params (a : Nat) (d : Word) : (s.launch a d).params = s.params := rfl
@[simp] theorem State.launch_regs (a : Nat) (d : Word) : (s.launch a d).regs = s.regs := rfl
@[simp] theorem State.launch_edge (a : Nat) (d : Word) : (s.launch a d).edge = s.edge := rfl
@[simp] theorem State.launch_program (a : Nat) (d : Word) : (s.launch a d).program = s.program := rfl
@[simp] theorem State.launch_ci (a : Nat) (d : Word) : (s.launch a d).ci = s.ci := rfl
@[simp] theorem State.launch_inputs (a : Nat) (d : Word) : (s.launch a d).inputs = s.inputs := rfl
@[simp] theorem State.launch_flight (a : Nat) (d : Word) :
    (s.launch a d).flight =
      some { acceptEdge := a, operand := d, riseLen := 0 } := rfl
@[simp] theorem State.launch_history (a : Nat) (d : Word) : (s.launch a d).history = s.history := rfl
@[simp] theorem State.launch_responses (a : Nat) (d : Word) : (s.launch a d).responses = s.responses := rfl
@[simp] theorem State.launch_completed (a : Nat) (d : Word) : (s.launch a d).completed = s.completed := rfl

@[simp] theorem State.noteRise_params (k : Nat) : (s.noteRise k).params = s.params := rfl
@[simp] theorem State.noteRise_regs (k : Nat) : (s.noteRise k).regs = s.regs := rfl
@[simp] theorem State.noteRise_edge (k : Nat) : (s.noteRise k).edge = s.edge := rfl
@[simp] theorem State.noteRise_program (k : Nat) : (s.noteRise k).program = s.program := rfl
@[simp] theorem State.noteRise_ci (k : Nat) : (s.noteRise k).ci = s.ci := rfl
@[simp] theorem State.noteRise_inputs (k : Nat) : (s.noteRise k).inputs = s.inputs := rfl
@[simp] theorem State.noteRise_flight (k : Nat) :
    (s.noteRise k).flight =
      s.flight.map fun f => { f with riseLen := k } := rfl
@[simp] theorem State.noteRise_history (k : Nat) : (s.noteRise k).history = s.history := rfl
@[simp] theorem State.noteRise_responses (k : Nat) : (s.noteRise k).responses = s.responses := rfl
@[simp] theorem State.noteRise_completed (k : Nat) : (s.noteRise k).completed = s.completed := rfl

@[simp] theorem State.record_params (ev : Flight → Event) : (s.record ev).params = s.params := rfl
@[simp] theorem State.record_regs (ev : Flight → Event) : (s.record ev).regs = s.regs := rfl
@[simp] theorem State.record_edge (ev : Flight → Event) : (s.record ev).edge = s.edge := rfl
@[simp] theorem State.record_program (ev : Flight → Event) : (s.record ev).program = s.program := rfl
@[simp] theorem State.record_ci (ev : Flight → Event) : (s.record ev).ci = s.ci := rfl
@[simp] theorem State.record_inputs (ev : Flight → Event) : (s.record ev).inputs = s.inputs := rfl
@[simp] theorem State.record_flight (ev : Flight → Event) : (s.record ev).flight = none := rfl
@[simp] theorem State.record_history (ev : Flight → Event) :
    (s.record ev).history =
      s.history ++ (s.flight.map ev).toList := rfl
@[simp] theorem State.record_responses (ev : Flight → Event) : (s.record ev).responses = s.responses := rfl
@[simp] theorem State.record_completed (ev : Flight → Event) : (s.record ev).completed = s.completed := rfl

@[simp] theorem State.enter_params (c : Ctl) : (s.enter c).params = s.params := rfl
@[simp] theorem State.enter_regs (c : Ctl) : (s.enter c).regs = { s.regs with ctl := c, cnt := 0#32 } := rfl
@[simp] theorem State.enter_edge (c : Ctl) : (s.enter c).edge = s.edge := rfl
@[simp] theorem State.enter_program (c : Ctl) : (s.enter c).program = s.program := rfl
@[simp] theorem State.enter_ci (c : Ctl) : (s.enter c).ci = s.ci := rfl
@[simp] theorem State.enter_inputs (c : Ctl) : (s.enter c).inputs = s.inputs := rfl
@[simp] theorem State.enter_flight (c : Ctl) : (s.enter c).flight = s.flight := rfl
@[simp] theorem State.enter_history (c : Ctl) : (s.enter c).history = s.history := rfl
@[simp] theorem State.enter_responses (c : Ctl) : (s.enter c).responses = s.responses := rfl
@[simp] theorem State.enter_completed (c : Ctl) : (s.enter c).completed = s.completed := rfl

@[simp] theorem State.stay_params (c : Ctl) (k : Word) : (s.stay c k).params = s.params := rfl
@[simp] theorem State.stay_regs (c : Ctl) (k : Word) :
    (s.stay c k).regs =
      { s.regs with ctl := c, cnt := k } := rfl
@[simp] theorem State.stay_edge (c : Ctl) (k : Word) : (s.stay c k).edge = s.edge := rfl
@[simp] theorem State.stay_program (c : Ctl) (k : Word) : (s.stay c k).program = s.program := rfl
@[simp] theorem State.stay_ci (c : Ctl) (k : Word) : (s.stay c k).ci = s.ci := rfl
@[simp] theorem State.stay_inputs (c : Ctl) (k : Word) : (s.stay c k).inputs = s.inputs := rfl
@[simp] theorem State.stay_flight (c : Ctl) (k : Word) : (s.stay c k).flight = s.flight := rfl
@[simp] theorem State.stay_history (c : Ctl) (k : Word) : (s.stay c k).history = s.history := rfl
@[simp] theorem State.stay_responses (c : Ctl) (k : Word) : (s.stay c k).responses = s.responses := rfl
@[simp] theorem State.stay_completed (c : Ctl) (k : Word) : (s.stay c k).completed = s.completed := rfl

@[simp] theorem State.respond_params (op : OpCode) (d : Word) : (s.respond op d).params = s.params := rfl
@[simp] theorem State.respond_regs (op : OpCode) (d : Word) :
    (s.respond op d).regs =
      { s.regs with rsp := { valid := true, op := op, data := d } } := rfl
@[simp] theorem State.respond_edge (op : OpCode) (d : Word) : (s.respond op d).edge = s.edge := rfl
@[simp] theorem State.respond_program (op : OpCode) (d : Word) : (s.respond op d).program = s.program := rfl
@[simp] theorem State.respond_ci (op : OpCode) (d : Word) : (s.respond op d).ci = s.ci := rfl
@[simp] theorem State.respond_inputs (op : OpCode) (d : Word) : (s.respond op d).inputs = s.inputs := rfl
@[simp] theorem State.respond_flight (op : OpCode) (d : Word) : (s.respond op d).flight = s.flight := rfl
@[simp] theorem State.respond_history (op : OpCode) (d : Word) : (s.respond op d).history = s.history := rfl
@[simp] theorem State.respond_responses (op : OpCode) (d : Word) :
    (s.respond op d).responses =
      s.responses ++ [(op, d)] := rfl
@[simp] theorem State.respond_completed (op : OpCode) (d : Word) : (s.respond op d).completed = s.ci := rfl

@[simp] theorem State.raise_params (e : ErrCode) (op : OpCode) (addr n : Word) :
    (s.raise e op addr n).params =
      s.params := rfl
@[simp] theorem State.raise_regs (e : ErrCode) (op : OpCode) (addr n : Word) :
    (s.raise e op addr n).regs =
      { s.regs with ctl := .halted, err := { code := e, op := op, addr := addr, elapsed := n } } := rfl
@[simp] theorem State.raise_edge (e : ErrCode) (op : OpCode) (addr n : Word) :
    (s.raise e op addr n).edge =
      s.edge := rfl
@[simp] theorem State.raise_program (e : ErrCode) (op : OpCode) (addr n : Word) :
    (s.raise e op addr n).program =
      s.program := rfl
@[simp] theorem State.raise_ci (e : ErrCode) (op : OpCode) (addr n : Word) :
    (s.raise e op addr n).ci =
      s.ci := rfl
@[simp] theorem State.raise_inputs (e : ErrCode) (op : OpCode) (addr n : Word) :
    (s.raise e op addr n).inputs =
      s.inputs := rfl
@[simp] theorem State.raise_flight (e : ErrCode) (op : OpCode) (addr n : Word) :
    (s.raise e op addr n).flight =
      none := rfl
@[simp] theorem State.raise_history (e : ErrCode) (op : OpCode) (addr n : Word) :
    (s.raise e op addr n).history =
      s.history ++ [.error op addr e n] := rfl
@[simp] theorem State.raise_responses (e : ErrCode) (op : OpCode) (addr n : Word) :
    (s.raise e op addr n).responses =
      s.responses := rfl
@[simp] theorem State.raise_completed (e : ErrCode) (op : OpCode) (addr n : Word) :
    (s.raise e op addr n).completed =
      s.completed := rfl

@[simp] theorem State.idleBus_params : (s.idleBus).params = s.params := rfl
@[simp] theorem State.idleBus_regs : (s.idleBus).regs = { s.regs with bus := s.regs.bus.idled } := rfl
@[simp] theorem State.idleBus_edge : (s.idleBus).edge = s.edge := rfl
@[simp] theorem State.idleBus_program : (s.idleBus).program = s.program := rfl
@[simp] theorem State.idleBus_ci : (s.idleBus).ci = s.ci := rfl
@[simp] theorem State.idleBus_inputs : (s.idleBus).inputs = s.inputs := rfl
@[simp] theorem State.idleBus_flight : (s.idleBus).flight = s.flight := rfl
@[simp] theorem State.idleBus_history : (s.idleBus).history = s.history := rfl
@[simp] theorem State.idleBus_responses : (s.idleBus).responses = s.responses := rfl
@[simp] theorem State.idleBus_completed : (s.idleBus).completed = s.completed := rfl

@[simp] theorem State.setDutRst_params (v : Bool) : (s.setDutRst v).params = s.params := rfl
@[simp] theorem State.setDutRst_regs (v : Bool) : (s.setDutRst v).regs = { s.regs with dutRst := v } := rfl
@[simp] theorem State.setDutRst_edge (v : Bool) : (s.setDutRst v).edge = s.edge := rfl
@[simp] theorem State.setDutRst_program (v : Bool) : (s.setDutRst v).program = s.program := rfl
@[simp] theorem State.setDutRst_ci (v : Bool) : (s.setDutRst v).ci = s.ci := rfl
@[simp] theorem State.setDutRst_inputs (v : Bool) : (s.setDutRst v).inputs = s.inputs := rfl
@[simp] theorem State.setDutRst_flight (v : Bool) : (s.setDutRst v).flight = s.flight := rfl
@[simp] theorem State.setDutRst_history (v : Bool) : (s.setDutRst v).history = s.history := rfl
@[simp] theorem State.setDutRst_responses (v : Bool) : (s.setDutRst v).responses = s.responses := rfl
@[simp] theorem State.setDutRst_completed (v : Bool) : (s.setDutRst v).completed = s.completed := rfl

@[simp] theorem State.setResetDone_params : (s.setResetDone).params = s.params := rfl
@[simp] theorem State.setResetDone_regs : (s.setResetDone).regs = { s.regs with resetDone := true } := rfl
@[simp] theorem State.setResetDone_edge : (s.setResetDone).edge = s.edge := rfl
@[simp] theorem State.setResetDone_program : (s.setResetDone).program = s.program := rfl
@[simp] theorem State.setResetDone_ci : (s.setResetDone).ci = s.ci := rfl
@[simp] theorem State.setResetDone_inputs : (s.setResetDone).inputs = s.inputs := rfl
@[simp] theorem State.setResetDone_flight : (s.setResetDone).flight = s.flight := rfl
@[simp] theorem State.setResetDone_history : (s.setResetDone).history = s.history := rfl
@[simp] theorem State.setResetDone_responses : (s.setResetDone).responses = s.responses := rfl
@[simp] theorem State.setResetDone_completed : (s.setResetDone).completed = s.completed := rfl

@[simp] theorem State.request_params (op : OpCode) (addr : Word) (b : BusOut) :
    (s.request op addr b).params =
      s.params := rfl
@[simp] theorem State.request_regs (op : OpCode) (addr : Word) (b : BusOut) :
    (s.request op addr b).regs =
      { s.regs with bus := b, txnOp := op, txnAddr := addr } := rfl
@[simp] theorem State.request_edge (op : OpCode) (addr : Word) (b : BusOut) :
    (s.request op addr b).edge =
      s.edge := rfl
@[simp] theorem State.request_program (op : OpCode) (addr : Word) (b : BusOut) :
    (s.request op addr b).program =
      s.program := rfl
@[simp] theorem State.request_ci (op : OpCode) (addr : Word) (b : BusOut) :
    (s.request op addr b).ci =
      s.ci := rfl
@[simp] theorem State.request_inputs (op : OpCode) (addr : Word) (b : BusOut) :
    (s.request op addr b).inputs =
      s.inputs := rfl
@[simp] theorem State.request_flight (op : OpCode) (addr : Word) (b : BusOut) :
    (s.request op addr b).flight =
      s.flight := rfl
@[simp] theorem State.request_history (op : OpCode) (addr : Word) (b : BusOut) :
    (s.request op addr b).history =
      s.history := rfl
@[simp] theorem State.request_responses (op : OpCode) (addr : Word) (b : BusOut) :
    (s.request op addr b).responses =
      s.responses := rfl
@[simp] theorem State.request_completed (op : OpCode) (addr : Word) (b : BusOut) :
    (s.request op addr b).completed =
      s.completed := rfl

@[simp] theorem State.loadFrame_params (v : Half) : (s.loadFrame v).params = s.params := rfl
@[simp] theorem State.loadFrame_regs (v : Half) :
    (s.loadFrame v).regs =
      { s.regs with shreg := v, rxacc := 0#16, bitcnt := 16#5, link := { s.regs.link with csN := false } } := rfl
@[simp] theorem State.loadFrame_edge (v : Half) : (s.loadFrame v).edge = s.edge := rfl
@[simp] theorem State.loadFrame_program (v : Half) : (s.loadFrame v).program = s.program := rfl
@[simp] theorem State.loadFrame_ci (v : Half) : (s.loadFrame v).ci = s.ci := rfl
@[simp] theorem State.loadFrame_inputs (v : Half) : (s.loadFrame v).inputs = s.inputs := rfl
@[simp] theorem State.loadFrame_flight (v : Half) : (s.loadFrame v).flight = s.flight := rfl
@[simp] theorem State.loadFrame_history (v : Half) : (s.loadFrame v).history = s.history := rfl
@[simp] theorem State.loadFrame_responses (v : Half) : (s.loadFrame v).responses = s.responses := rfl
@[simp] theorem State.loadFrame_completed (v : Half) : (s.loadFrame v).completed = s.completed := rfl

@[simp] theorem State.driveBit_params : (s.driveBit).params = s.params := rfl
@[simp] theorem State.driveBit_regs :
    (s.driveBit).regs =
      { s.regs with link := { s.regs.link with mosi := topBit s.regs.shreg, sclk := true } } := rfl
@[simp] theorem State.driveBit_edge : (s.driveBit).edge = s.edge := rfl
@[simp] theorem State.driveBit_program : (s.driveBit).program = s.program := rfl
@[simp] theorem State.driveBit_ci : (s.driveBit).ci = s.ci := rfl
@[simp] theorem State.driveBit_inputs : (s.driveBit).inputs = s.inputs := rfl
@[simp] theorem State.driveBit_flight : (s.driveBit).flight = s.flight := rfl
@[simp] theorem State.driveBit_history : (s.driveBit).history = s.history := rfl
@[simp] theorem State.driveBit_responses : (s.driveBit).responses = s.responses := rfl
@[simp] theorem State.driveBit_completed : (s.driveBit).completed = s.completed := rfl

@[simp] theorem State.sampleBit_params (b : Bool) : (s.sampleBit b).params = s.params := rfl
@[simp] theorem State.sampleBit_regs (b : Bool) :
    (s.sampleBit b).regs =
      { s.regs with rxacc := shiftIn s.regs.rxacc b, link := { s.regs.link with sclk := false }, shreg := s.regs.shreg <<< 1, bitcnt := s.regs.bitcnt - 1#5 } := rfl
@[simp] theorem State.sampleBit_edge (b : Bool) : (s.sampleBit b).edge = s.edge := rfl
@[simp] theorem State.sampleBit_program (b : Bool) : (s.sampleBit b).program = s.program := rfl
@[simp] theorem State.sampleBit_ci (b : Bool) : (s.sampleBit b).ci = s.ci := rfl
@[simp] theorem State.sampleBit_inputs (b : Bool) : (s.sampleBit b).inputs = s.inputs := rfl
@[simp] theorem State.sampleBit_flight (b : Bool) : (s.sampleBit b).flight = s.flight := rfl
@[simp] theorem State.sampleBit_history (b : Bool) : (s.sampleBit b).history = s.history := rfl
@[simp] theorem State.sampleBit_responses (b : Bool) : (s.sampleBit b).responses = s.responses := rfl
@[simp] theorem State.sampleBit_completed (b : Bool) : (s.sampleBit b).completed = s.completed := rfl

@[simp] theorem State.deselect_params : (s.deselect).params = s.params := rfl
@[simp] theorem State.deselect_regs :
    (s.deselect).regs =
      { s.regs with link := { s.regs.link with csN := true } } := rfl
@[simp] theorem State.deselect_edge : (s.deselect).edge = s.edge := rfl
@[simp] theorem State.deselect_program : (s.deselect).program = s.program := rfl
@[simp] theorem State.deselect_ci : (s.deselect).ci = s.ci := rfl
@[simp] theorem State.deselect_inputs : (s.deselect).inputs = s.inputs := rfl
@[simp] theorem State.deselect_flight : (s.deselect).flight = s.flight := rfl
@[simp] theorem State.deselect_history : (s.deselect).history = s.history := rfl
@[simp] theorem State.deselect_responses : (s.deselect).responses = s.responses := rfl
@[simp] theorem State.deselect_completed : (s.deselect).completed = s.completed := rfl

/-! `capture` writes `rdata`, and only while the command is WB_READ. -/

@[simp] theorem State.capture_params (x : Sample) : (s.capture x).params = s.params := by
  unfold State.capture; split <;> rfl
theorem State.capture_regs (x : Sample) : (s.capture x).regs =
    { s.regs with rdata := if s.regs.txnOp = opWbRead then x.wbDatOut else s.regs.rdata } := by
  unfold State.capture; split <;> simp [*]
@[simp] theorem State.capture_edge (x : Sample) : (s.capture x).edge = s.edge := by
  unfold State.capture; split <;> rfl
@[simp] theorem State.capture_program (x : Sample) : (s.capture x).program = s.program := by
  unfold State.capture; split <;> rfl
@[simp] theorem State.capture_ci (x : Sample) : (s.capture x).ci = s.ci := by
  unfold State.capture; split <;> rfl
@[simp] theorem State.capture_inputs (x : Sample) : (s.capture x).inputs = s.inputs := by
  unfold State.capture; split <;> rfl
@[simp] theorem State.capture_flight (x : Sample) : (s.capture x).flight = s.flight := by
  unfold State.capture; split <;> rfl
@[simp] theorem State.capture_history (x : Sample) : (s.capture x).history = s.history := by
  unfold State.capture; split <;> rfl
@[simp] theorem State.capture_responses (x : Sample) : (s.capture x).responses = s.responses := by
  unfold State.capture; split <;> rfl
@[simp] theorem State.capture_completed (x : Sample) : (s.capture x).completed = s.completed := by
  unfold State.capture; split <;> rfl

/-! The bus outputs after each of their updates. -/

@[simp] theorem BusOut.idled_eq (b : BusOut) :
    b.idled = { stb := false, cyc := false, we := b.we, sel := 0#4, adr := 0#32, datIn := 0#32 } := rfl
@[simp] theorem BusOut.driveWrite_eq (b : BusOut) (addr data : Word) : b.driveWrite addr data =
    { stb := true, cyc := true, we := true, sel := 0b1111#4, adr := addr, datIn := data } := rfl
@[simp] theorem BusOut.driveRead_eq (b : BusOut) (addr : Word) : b.driveRead addr =
    { stb := true, cyc := true, we := false, sel := 0b1111#4, adr := addr, datIn := b.datIn } := rfl

/-! Sampling after an edge: one edge on, the samples are the same ones, one nearer. -/

/-- A state one edge on, with the first sample used up, sees at `i` what the old state saw at `i + 1`. -/
theorem State.sampleAt_succ {s t : State} (he : t.edge = s.edge + 1) (hi : t.inputs = s.inputs.tail) (i : Nat) :
    t.sampleAt i = s.sampleAt (i + 1) := by
  unfold State.sampleAt
  rw [he, hi, List.getElem?_tail, Nat.add_right_comm, Nat.add_assoc]

@[simp] theorem State.tick_sampleAt (i : Nat) : s.tick.sampleAt i = s.sampleAt (i + 1) :=
  State.sampleAt_succ rfl rfl i

end Sys2Proof.Machine
end

