-- ==== Sys2Proof/Laws/Phases.lean ====
section
/-! SUPPORT. What one edge can do, said once: `edgeWith` case by case, and what every edge does to the run
around the block. -/

namespace Sys2Proof.Machine

open Sys2Proof

variable {s t : State} {accept accept' : Sample → State → Host.Outcome State Fault Refusal}

/-! ### `edgeWith` in each case -/

theorem edgeWith_por (h : s.sample.por = true) : edgeWith accept s = .next s.tick.powerOn := by
  simp [edgeWith, h]

/-- In IDLE with `por` low, an edge is what accepting does. -/
theorem edgeWith_accepting (h : s.Accepting) : edgeWith accept s = accept s.sample s := by
  obtain ⟨hp, hc, hl⟩ := h
  unfold edgeWith
  rw [hp, hc]
  cases he : s.regs.err.code with
  | reserved k => exact absurd he (hl k)
  | none | protocolPrecondition | ackTimeout | ackNotReleased => rfl

/-- What a busy or halted block does at an edge without `por`, whatever is presented. -/
def phaseResult (s : State) : State :=
  match s.regs.ctl with
  | .idle | .reserved _ => s
  | .requestAsserted | .awaitAckRise => ackRiseStep s.sample s
  | .awaitAckFall => ackFallStep s.sample s
  | .rstAssert => rstAssertStep s
  | .rstRelease => rstReleaseStep s
  | .spiCsSetup => spiCsSetupStep s
  | .spiBitHigh => spiBitHighStep s.sample s
  | .spiBitLow => spiBitLowStep s
  | .spiTail => spiTailStep s
  | .halted => haltedStep s

theorem edgeWith_phase (hp : s.sample.por = false) (hl : s.Live) (hi : s.regs.ctl ≠ .idle)
    (hr : ∀ k, s.regs.ctl ≠ .reserved k) : edgeWith accept s = .next (phaseResult s) := by
  unfold edgeWith phaseResult
  rw [hp]
  cases he : s.regs.err.code with
  | reserved k => exact absurd he (hl k)
  | none | protocolPrecondition | ackTimeout | ackNotReleased =>
    cases hc : s.regs.ctl with
    | idle => exact absurd hc hi
    | reserved k => exact absurd hc (hr k)
    | requestAsserted | awaitAckRise | awaitAckFall | rstAssert | rstRelease | spiCsSetup | spiBitHigh
    | spiBitLow | spiTail | halted => rfl

/-- Outside IDLE, and at a POR edge, what accepting would do is not asked. -/
theorem edgeWith_ports_ignored (h : s.sample.por = true ∨ s.regs.ctl ≠ .idle) :
    edgeWith accept s = edgeWith accept' s := by
  rcases h with hp | hi
  · rw [edgeWith_por hp, edgeWith_por hp]
  · unfold edgeWith
    cases hc : s.regs.ctl with
    | idle => exact absurd hc hi
    | reserved k | requestAsserted | awaitAckRise | awaitAckFall | rstAssert | rstRelease | spiCsSetup
    | spiBitHigh | spiBitLow | spiTail | halted => rfl

/-- Everything an edge that has a next state can be: a POR edge, an accept edge, or a phase's own step. -/
theorem edgeWith_next (h : edgeWith accept s = .next t) :
    (s.sample.por = true ∧ t = s.tick.powerOn) ∨
    (s.Accepting ∧ accept s.sample s = .next t) ∨
    (s.sample.por = false ∧ s.Live ∧ s.regs.ctl ≠ .idle ∧ (∀ k, s.regs.ctl ≠ .reserved k) ∧
      t = phaseResult s) := by
  cases hp : s.sample.por with
  | true =>
    rw [edgeWith_por hp] at h
    exact .inl ⟨rfl, by cases h; rfl⟩
  | false =>
    right
    have hl : s.Live := by
      intro k hk
      simp [edgeWith, hp, hk] at h
    by_cases hi : s.regs.ctl = .idle
    · refine .inl ⟨⟨hp, hi, hl⟩, ?_⟩
      rwa [edgeWith_accepting ⟨hp, hi, hl⟩] at h
    · have hr : ∀ k, s.regs.ctl ≠ .reserved k := by
        intro k hk
        unfold edgeWith at h
        rw [hp, hk] at h
        cases he : s.regs.err.code <;> rw [he] at h <;> simp at h
      rw [edgeWith_phase hp hl hi hr] at h
      exact .inr ⟨rfl, hl, hi, hr, by cases h; rfl⟩

/-! ### The run around the block -/

/-- An edge has passed: the edge is counted, its sample used up, and neither the parameters nor the host's
program has changed. -/
structure Passed (s t : State) : Prop where
  edge : t.edge = s.edge + 1
  inputs : t.inputs = s.inputs.tail
  params : t.params = s.params
  program : t.program = s.program

theorem Passed.sampleAt (h : Passed s t) (i : Nat) : t.sampleAt i = s.sampleAt (i + 1) :=
  State.sampleAt_succ h.edge h.inputs i

theorem Passed.porLow (h : Passed s t) {n : Nat} (hp : s.PorLow (n + 1)) : t.PorLow n := fun i hi => by
  rw [h.sampleAt]; exact hp _ (by omega)

theorem passed_fixedPhase {limit : Limit} {finish : State → State}
    (hf : ∀ u : State, (finish u).edge = u.edge ∧ (finish u).inputs = u.inputs ∧ (finish u).params = u.params ∧
      (finish u).program = u.program) : Passed s (s.fixedPhase limit finish) := by
  unfold State.fixedPhase
  split
  · obtain ⟨h1, h2, h3, h4⟩ := hf s.tick
    exact ⟨by rw [h1]; rfl, by rw [h2]; rfl, by rw [h3]; rfl, by rw [h4]; rfl⟩
  · exact ⟨rfl, rfl, rfl, rfl⟩

theorem passed_phaseResult (hi : s.regs.ctl ≠ .idle) (hr : ∀ k, s.regs.ctl ≠ .reserved k) :
    Passed s (phaseResult s) := by
  unfold phaseResult
  cases hc : s.regs.ctl with
  | idle => exact absurd hc hi
  | reserved k => exact absurd hc (hr k)
  | requestAsserted | awaitAckRise =>
    simp only [ackRiseStep]
    split
    · constructor <;> simp
    · split <;> constructor <;> simp
  | awaitAckFall =>
    simp only [ackFallStep, wbComplete]
    split
    · split <;> constructor <;> simp
    · split <;> constructor <;> simp
  | rstAssert | rstRelease | spiCsSetup | spiBitHigh | spiTail =>
    exact passed_fixedPhase fun u => ⟨by simp, by simp, by simp, by simp⟩
  | spiBitLow => exact passed_fixedPhase fun u => by split <;> simp
  | halted => exact ⟨rfl, rfl, rfl, rfl⟩

end Sys2Proof.Machine
end

