-- ==== Sys2Proof/Laws/Step.lean ====
section
/-! SUPPORT. The meanings and the step through `edgeWith`: what accepting each command does, and that a step is
`edgeWith` of what the ports show. -/

namespace Sys2Proof.Machine

open Sys2Proof

variable {s t : State}

/-! ### What accepting a command does -/

/-- What accepting a decoded word does. -/
def onAccept : Decoded → Sample → State → Host.Outcome State Fault Refusal
  | .instr .reset, _, s => .next (acceptReset s)
  | .instr (.wbWrite addr data), x, s => acceptWb opWbWrite addr data (s.regs.bus.driveWrite addr data) x s
  | .instr (.wbRead addr), x, s => acceptWb opWbRead addr 0#32 (s.regs.bus.driveRead addr) x s
  | .instr (.spiExchange value), _, s => .next (acceptSpi value s)
  | .reserved op, _, _ => .refused (.reservedOpcode op)

/-- What the ports show at an edge, as the block dispatches on it. -/
def onPorts (s : State) : Sample → State → Host.Outcome State Fault Refusal :=
  match s.presented with
  | none => fun _ t => .next t.tick
  | some w => onAccept (decode w)

theorem exec_eq_edgeWith (i : Instr) (s : State) : exec i s = edgeWith (onAccept (.instr i)) s := by
  cases i <;> rfl

theorem step_eq_edgeWith (s : State) : step s = edgeWith (onPorts s) s := by
  unfold step onPorts
  cases s.presented with
  | none => rfl
  | some w =>
    simp only
    cases decode w with
    | instr i => exact exec_eq_edgeWith i s
    | reserved op => rfl

/-- A WB accept edge, in the order of `60_exceptions.md` R181. -/
theorem acceptWb_next {op : OpCode} {addr d : Word} {b : BusOut} {x : Sample}
    (h : acceptWb op addr d b x s = .next t) :
    s.regs.resetDone = true ∧
    ((x.wbAck = true ∧ t = s.tick.advanceCi.raise .protocolPrecondition op addr 0#32) ∨
     (x.wbAck = false ∧
       t = ((s.tick.advanceCi.launch s.edge d).request op addr b).enter .requestAsserted)) := by
  unfold acceptWb at h
  cases hr : s.regs.resetDone with
  | false => simp [hr] at h
  | true =>
    refine ⟨rfl, ?_⟩
    cases hx : x.wbAck with
    | true => simp only [hr, hx] at h; exact .inl ⟨rfl, by cases h; rfl⟩
    | false => simp only [hr, hx] at h; exact .inr ⟨rfl, by cases h; rfl⟩

theorem passed_onAccept {d : Decoded} {x : Sample} (h : onAccept d x s = .next t) : Passed s t := by
  cases d with
  | reserved op => cases h
  | instr i =>
    cases i with
    | reset | spiExchange value => cases h; exact ⟨rfl, rfl, rfl, rfl⟩
    | wbWrite _ _ | wbRead _ =>
      obtain ⟨_, ⟨_, rfl⟩ | ⟨_, rfl⟩⟩ := acceptWb_next h <;> exact ⟨rfl, rfl, rfl, rfl⟩

theorem passed_onPorts {x : Sample} (h : onPorts s x s = .next t) : Passed s t := by
  cases hp : s.presented with
  | none => simp only [onPorts, hp] at h; cases h; exact ⟨rfl, rfl, rfl, rfl⟩
  | some w => simp only [onPorts, hp] at h; exact passed_onAccept h

/-! ### Every step -/

theorem passed_edgeWith {accept : Sample → State → Host.Outcome State Fault Refusal}
    (ha : ∀ x u, accept x s = .next u → Passed s u) (h : edgeWith accept s = .next t) : Passed s t := by
  obtain ⟨-, rfl⟩ | ⟨-, hx⟩ | ⟨-, -, hi, hr, rfl⟩ := edgeWith_next h
  · exact ⟨rfl, rfl, rfl, rfl⟩
  · exact ha _ _ hx
  · exact passed_phaseResult hi hr

theorem passed_step (h : step s = .next t) : Passed s t :=
  passed_edgeWith (fun _ _ hx => passed_onPorts hx) (step_eq_edgeWith s ▸ h)

theorem passed_exec {i : Instr} (h : exec i s = .next t) : Passed s t :=
  passed_edgeWith (fun _ _ hx => passed_onAccept hx) (exec_eq_edgeWith i s ▸ h)

/-- A busy or halted block steps by its phase, whatever the ports show. -/
theorem step_phase (hp : s.sample.por = false) (hl : s.Live) (hi : s.regs.ctl ≠ .idle)
    (hr : ∀ k, s.regs.ctl ≠ .reserved k) : step s = .next (phaseResult s) := by
  rw [step_eq_edgeWith, edgeWith_phase hp hl hi hr]

/-! ### Many steps -/

/-- A step and then `n` more. -/
theorem runEdges_succ {n : Nat} (h : step s = .next t) : runEdges (n + 1) s = runEdges n t := by
  simp [runEdges, h]

/-- `n` steps and then `m` more. -/
theorem runEdges_add {n : Nat} : ∀ {s t : State} {m : Nat}, runEdges n s = .next t →
    runEdges (n + m) s = runEdges m t := by
  induction n with
  | zero => intro s t m h; cases h; rw [Nat.zero_add]
  | succ n ih =>
    intro s t m h
    cases hs : step s with
    | next u =>
      rw [runEdges_succ hs] at h
      rw [Nat.add_right_comm, runEdges_succ hs, ih h]
    | fault f => simp [runEdges, hs] at h
    | refused r => simp [runEdges, hs] at h

/-- The host's run is this run. -/
theorem core_run_eq_runEdges (n : Nat) : ∀ s : State, Sys2Proof.core.run n s = runEdges n s := by
  have hnext : ∀ (M : Host.Core) (k : Nat) (u v : M.State), M.step u = .next v → M.run (k + 1) u = M.run k v :=
    fun M k u v h => by simp only [Host.Core.run, h]
  have hfault : ∀ (M : Host.Core) (k : Nat) (u : M.State) (f : M.Fault), M.step u = .fault f →
      M.run (k + 1) u = .fault f := fun M k u f h => by simp only [Host.Core.run, h]
  have hrefused : ∀ (M : Host.Core) (k : Nat) (u : M.State) (r : M.Refusal), M.step u = .refused r →
      M.run (k + 1) u = .refused r := fun M k u r h => by simp only [Host.Core.run, h]
  induction n with
  | zero => intro s; rfl
  | succ n ih =>
    intro s
    cases hs : step s with
    | next u => rw [runEdges_succ hs, ← ih u]; exact hnext Sys2Proof.core n s u hs
    | fault f => simp only [runEdges, hs]; exact hfault Sys2Proof.core n s f hs
    | refused r => simp only [runEdges, hs]; exact hrefused Sys2Proof.core n s r hs

end Sys2Proof.Machine
end

