-- ==== Sys2Proof/Laws/Run.lean ====
section
/-! SUPPORT. What one edge can do to the run around the block, said once: the kinds of edge, and what each does
to the index, the record, the responses and the note of the last completion. -/

namespace Sys2Proof.Machine

open Sys2Proof

variable {s t : State}

/-- The bookkeeping of the run is as it was: index, record, responses and the note of the last completion. -/
structure SameRun (s t : State) : Prop where
  ci : t.ci = s.ci
  history : t.history = s.history
  responses : t.responses = s.responses
  completed : t.completed = s.completed

/-- A failing edge: HALTED is entered and one error event recorded (`60_exceptions.md` R172). -/
structure Fails (s t : State) : Prop where
  ctl : t.regs.ctl = .halted
  valid : t.regs.rsp.valid = false
  history : ∃ op addr e n, t.history = s.history ++ [.error op addr e n]
  responses : t.responses = s.responses
  completed : t.completed = s.completed
  flight : t.flight = none

/-- A completing edge: the block responds and returns to IDLE (`10_state.md` R37), with at most one event, none of
them an error. -/
structure Completes (s t : State) : Prop where
  ctl : t.regs.ctl = .idle
  valid : t.regs.rsp.valid = true
  ci : t.ci = s.ci
  history : t.history = s.history ∨ ∃ e, e.isError = false ∧ t.history = s.history ++ [e]
  responses : t.responses = s.responses ++ [(t.regs.rsp.op, t.regs.rsp.data)]
  completed : t.completed = s.ci
  flight : t.flight = none

/-- The kinds of edge that have a next state. -/
inductive EdgeKind (s t : State) : Prop where
  | por (high : s.sample.por = true) (next : t = s.tick.powerOn)
  | quiet (acc : s.Accepting) (none : s.presented = none) (next : t = s.tick)
  | start (acc : s.Accepting) (busy : t.regs.busy = true) (valid : t.regs.rsp.valid = false)
      (ci : t.ci = s.ci + 1) (history : t.history = s.history) (responses : t.responses = s.responses)
      (completed : t.completed = s.completed)
  | failAtAccept (acc : s.Accepting) (ci : t.ci = s.ci + 1) (fails : Fails s t)
  | work (low : s.sample.por = false) (was : s.regs.busy = true) (busy : t.regs.busy = true)
      (valid : t.regs.rsp.valid = false) (same : SameRun s t)
  | complete (low : s.sample.por = false) (was : s.regs.busy = true) (done : Completes s t)
  | fail (low : s.sample.por = false) (was : s.regs.busy = true) (ci : t.ci = s.ci) (fails : Fails s t)
  | halted (low : s.sample.por = false) (was : s.regs.ctl = .halted) (next : t = s.tick)

theorem onAccept_edgeKind {d : Decoded} (ha : s.Accepting) (h : onAccept d s.sample s = .next t) :
    EdgeKind s t := by
  cases d with
  | reserved op => cases h
  | instr i =>
    cases i with
    | reset | spiExchange value => cases h; exact .start ha rfl rfl rfl rfl rfl rfl
    | wbWrite _ _ | wbRead _ =>
      obtain ⟨_, ⟨_, rfl⟩ | ⟨_, rfl⟩⟩ := acceptWb_next h
      · exact .failAtAccept ha rfl ⟨rfl, rfl, ⟨_, _, _, _, rfl⟩, rfl, rfl, rfl⟩
      · exact .start ha rfl rfl rfl rfl rfl rfl

/-- A phase that ends by completing: it works on, or it completes. -/
theorem fixedPhase_complete_kind {limit : Limit} {op : OpCode} {d : Word} {ev : Flight → Event} {u : State → State}
    (hp : s.sample.por = false) (hb : s.regs.busy = true) (hev : ∀ f, (ev f).isError = false)
    (hu : (u s.tick).ci = s.ci ∧ (u s.tick).history = s.history ∧ (u s.tick).responses = s.responses) :
    EdgeKind s (s.fixedPhase limit fun t => (((u t).enter .idle).respond op d).record ev) := by
  obtain ⟨h1, h2, h3⟩ := hu
  unfold State.fixedPhase
  split
  · refine .complete hp hb ⟨by simp, by simp, by simp [h1], ?_, by simp [h3], by simp [h1], by simp⟩
    cases hf : (u s.tick).flight with
    | none => left; simp [hf, h2]
    | some f => exact .inr ⟨ev f, hev f, by simp [hf, h2]⟩
  · exact .work hp hb hb rfl ⟨rfl, rfl, rfl, rfl⟩

theorem wbComplete_kind {j : Nat} (hp : s.sample.por = false) (hb : s.regs.busy = true) :
    EdgeKind s (wbComplete s.regs j s.tick) := by
  have hev : ∀ f, (busEvent s.regs j f).isError = false := by
    intro f; unfold busEvent; split <;> rfl
  unfold wbComplete
  split <;> refine .complete hp hb ⟨by simp, by simp, by simp, ?_, by simp, by simp, by simp⟩ <;>
    cases hf : s.flight with
    | none => left; simp [hf]
    | some f => exact .inr ⟨_, hev f, by simp [hf]⟩

theorem phaseResult_edgeKind (hp : s.sample.por = false) (hi : s.regs.ctl ≠ .idle)
    (hr : ∀ k, s.regs.ctl ≠ .reserved k) : EdgeKind s (phaseResult s) := by
  unfold phaseResult
  cases hc : s.regs.ctl with
  | idle => exact absurd hc hi
  | reserved k => exact absurd hc (hr k)
  | halted => exact .halted hp hc rfl
  | requestAsserted | awaitAckRise =>
    have hb : s.regs.busy = true := by simp [Regs.busy, hc]
    simp only [ackRiseStep]
    split
    · exact .work hp hb rfl (by simp [State.capture_regs]) ⟨by simp, by simp, by simp, by simp⟩
    · split
      · exact .fail hp hb rfl ⟨rfl, rfl, ⟨_, _, _, _, rfl⟩, rfl, rfl, rfl⟩
      · exact .work hp hb rfl rfl ⟨rfl, rfl, rfl, rfl⟩
  | awaitAckFall =>
    have hb : s.regs.busy = true := by simp [Regs.busy, hc]
    simp only [ackFallStep]
    split
    · exact wbComplete_kind hp hb
    · split
      · exact .fail hp hb rfl ⟨rfl, rfl, ⟨_, _, _, _, rfl⟩, rfl, rfl, rfl⟩
      · exact .work hp hb rfl rfl ⟨rfl, rfl, rfl, rfl⟩
  | rstRelease =>
    exact fixedPhase_complete_kind (u := State.setResetDone) hp (by simp [Regs.busy, hc]) (fun _ => rfl)
      ⟨rfl, rfl, rfl⟩
  | spiTail =>
    have hb : s.regs.busy = true := by simp [Regs.busy, hc]
    exact fixedPhase_complete_kind (u := State.deselect) hp hb (fun _ => rfl) ⟨rfl, rfl, rfl⟩
  | rstAssert | spiCsSetup | spiBitHigh =>
    have hb : s.regs.busy = true := by simp [Regs.busy, hc]
    simp only [rstAssertStep, spiCsSetupStep, spiBitHighStep, State.fixedPhase]
    split
    · exact .work hp hb rfl rfl ⟨rfl, rfl, rfl, rfl⟩
    · exact .work hp hb (by simp [Regs.busy, hc]) rfl ⟨rfl, rfl, rfl, rfl⟩
  | spiBitLow =>
    have hb : s.regs.busy = true := by simp [Regs.busy, hc]
    simp only [spiBitLowStep, State.fixedPhase]
    split
    · split <;> exact .work hp hb rfl rfl ⟨rfl, rfl, rfl, rfl⟩
    · exact .work hp hb (by simp [Regs.busy, hc]) rfl ⟨rfl, rfl, rfl, rfl⟩

/-- Every edge that has a next state is of one of the kinds. -/
theorem step_edgeKind (h : step s = .next t) : EdgeKind s t := by
  rw [step_eq_edgeWith] at h
  obtain ⟨hp, rfl⟩ | ⟨ha, hx⟩ | ⟨hp, -, hi, hr, rfl⟩ := edgeWith_next h
  · exact .por hp rfl
  · cases hw : s.presented with
    | none => simp only [onPorts, hw] at hx; cases hx; exact .quiet ha hw rfl
    | some w => simp only [onPorts, hw] at hx; exact onAccept_edgeKind ha hx
  · exact phaseResult_edgeKind hp hi hr

end Sys2Proof.Machine
end

