-- ==== Sys2Proof/Machine/Text.lean ====
section
/-! DEFINITION. The text form of a program: one line of characters read as a line of the sequencing layer
(`30_encoding.md` R89, R95). The block never sees it. -/

namespace Sys2Proof.Machine

open Sys2Proof

/-- A character between words. -/
def isBlank (c : Char) : Bool := c = ' ' || c = '\t'

/-- The line without its comment: "`;` starts a comment" (R89). -/
def dropComment (cs : List Char) : List Char := cs.takeWhile (· ≠ ';')

/-- The text without blanks at either end. -/
def trimBlanks (cs : List Char) : List Char :=
  ((cs.dropWhile isBlank).reverse.dropWhile isBlank).reverse

/-- The pieces of the text between commas. -/
def splitCommas : List Char → List (List Char)
  | []      => [[]]
  | c :: cs =>
    if c = ',' then [] :: splitCommas cs
    else
      match splitCommas cs with
      | []      => [[c]]
      | p :: ps => (c :: p) :: ps

/-- The value of a digit, decimal or hexadecimal. -/
def digitValue (c : Char) : Option Nat :=
  if '0' ≤ c ∧ c ≤ '9' then some (c.toNat - 48)
  else if 'a' ≤ c ∧ c ≤ 'f' then some (c.toNat - 87)
  else if 'A' ≤ c ∧ c ≤ 'F' then some (c.toNat - 55)
  else none

/-- The digits in a base after those already read, whose value is `acc`. -/
def readDigits (base acc : Nat) : List Char → Option Nat
  | []      => some acc
  | c :: cs =>
    match digitValue c with
    | some d => if d < base then readDigits base (base * acc + d) cs else none
    | none   => none

/-- A number: "hexadecimal with `0x` or decimal" (R89). -/
def readNumber : List Char → Option Nat
  | []                     => none
  | '0' :: 'x' :: c :: cs  => readDigits 16 0 (c :: cs)
  | c :: cs                => readDigits 10 0 (c :: cs)

/-- A number of at most `w` bits; a larger one is no operand of that width (log entry 11). -/
def readBits (w : Nat) (cs : List Char) : Option (BitVec w) :=
  match readNumber cs with
  | some n => if n < 2 ^ w then some (BitVec.ofNat w n) else none
  | none   => none

/-- A line of the given name and operands, none when it is no line of the text form. -/
def readWords (name : List Char) (operands : List (List Char)) : Option Line :=
  if name = "RESET".toList then
    match operands with
    | []               => some .reset
    | _ :: _           => none
  else if name = "WB_WRITE".toList then
    match operands with
    | [a, d]           => (readBits 32 a).bind fun addr => (readBits 32 d).map fun data => .wbWrite addr data
    | _                => none
  else if name = "WB_READ".toList then
    match operands with
    | [a]              => (readBits 32 a).map .wbRead
    | _                => none
  else if name = "SPI_EXCHANGE".toList then
    match operands with
    | [v]              => (readNumber v).map .spiExchange
    | _                => none
  else if name = "SELECT_PROJECT".toList then
    match operands with
    | [p]              => (readBits 32 p).map .selectProject
    | _                => none
  else if name = "READ_PROJECT".toList then
    match operands with
    | []               => some .readProject
    | _ :: _           => none
  else if name = "SET_OE".toList then
    match operands with
    | [io]             => (readNumber io).map .setOe
    | _                => none
  else if name = "SPI_SEND".toList then
    match operands with
    | [c, d]           => (readBits 8 c).bind fun ctl8 => (readBits 8 d).map fun data8 => .spiSend ctl8 data8
    | _                => none
  else none

/-- One line of text: nothing on a line of blanks and comment, else one line of the program; none for an
error of the text. -/
def readLine (text : List Char) : Option (List Line) :=
  let body := trimBlanks (dropComment text)
  let rest := trimBlanks (body.dropWhile fun c => !isBlank c)
  if body = [] then some []
  else
    (readWords (body.takeWhile fun c => !isBlank c)
      (if rest = [] then [] else (splitCommas rest).map trimBlanks)).map fun l => [l]

/-- A program's text, "one command per line, in program order" (R89); none if a line is an error. -/
def readProgram : List (List Char) → Option (List Line)
  | []      => some []
  | t :: ts =>
    match readLine t, readProgram ts with
    | some l, some ls => some (l ++ ls)
    | _, _            => none

end Sys2Proof.Machine
end

