-- ==== Sys2Proof/Tests/Slice0.lean ====
section
/-! SUPPORT. The model's own tests: worked words and vectors of `95_test_vectors.md`, ill-formed terms that the
checks refuse, and for every statement of Obligations.lean with hypotheses a state that meets them together. -/

namespace Sys2Proof.Tests

open Sys2Proof Sys2Proof.Machine

/-! ### Small states -/

/-- A legal count, for numbers written out. -/
def lim (n : Nat) : Limit := ⟨max 1 (min n 4294967295), by omega⟩

/-- Short phases for tests: A = B = S = 1 and N = 2. -/
def short : Params := ⟨lim 1, lim 1, lim 1, lim 2⟩

/-- The parameters of the vectors: 5, 5, 7 and N = 4. -/
def usual : Params := ⟨lim 5, lim 5, lim 7, lim 4⟩

/-- An edge with `por` low, the acknowledge low and the next command presented. -/
def low : Sample := { por := false, present := true, wbAck := false, wbDatOut := 0#32, spiMiso := false }

/-- The same with the acknowledge high and a word on the read data lines. -/
def high : Sample := { low with wbAck := true, wbDatOut := 0xDEADBEEF#32 }

/-- The same with `spi_miso` high. -/
def miso : Sample := { low with spiMiso := true }

/-- A POR edge, with the DUT's acknowledge high. -/
def porEdge : Sample := { high with por := true }

/-- The registers of an IDLE block in which a RESET has completed. -/
def ready : Regs := { Regs.por with resetDone := true }

/-- A state at edge 12 with these parameters, registers, program and coming samples. -/
def at12 (p : Params) (r : Regs) (prog : List CmdWord) (xs : List Sample) : State :=
  { params := p, regs := r, edge := 12, program := prog, ci := 0, inputs := xs, flight := none, history := [],
    responses := [], completed := 0 }

/-- An IDLE block in which a RESET has completed, with a program and coming samples. -/
def idle (prog : List CmdWord) (xs : List Sample) : State := at12 short ready prog xs

/-- A block in some control state, with the coming samples. -/
def inCtl (c : Ctl) (xs : List Sample) : State := at12 short { ready with ctl := c } [] xs

/-- The outcome is a next state with a property. -/
def goesTo (o : Host.Outcome State Fault Refusal) (p : State → Bool) : Bool :=
  match o with
  | .next t => p t
  | .fault _ | .refused _ => false

/-! ### Well-formedness: what each check refuses -/

theorem test_wf_commands : [1#3, 2#3, 3#3, 4#3].all (fun op => (Cmd.mk op 7#32 9#32).wellFormed) = true := by
  decide
theorem test_wf_reserved_opcode_refused :
    [0#3, 5#3, 6#3, 7#3].all (fun op => !(Cmd.mk op 0#32 0#32).wellFormed) = true := by decide
theorem test_wf_limits : limitLegal 1 = true ∧ limitLegal 4294967295 = true := by decide
theorem test_wf_limit_zero_refused : limitLegal 0 = false ∧ limitOf 0 = none := by decide
theorem test_wf_limit_too_large_refused : limitLegal 4294967296 = false ∧ limitOf 4294967296 = none := by decide
theorem test_wf_pin_map : (PinMap.mk 8 9 10 11).wellFormed 38 = true := by decide
theorem test_wf_pin_map_shared_pin_refused : (PinMap.mk 8 9 10 8).wellFormed 38 = false := by decide
theorem test_wf_pin_map_pin_too_high_refused : (PinMap.mk 8 9 10 38).wellFormed 38 = false := by decide

/-! ### Decoding: words written out from `30_encoding.md` R81 and R82 -/

/-- `001`, then ignored fields. -/
theorem test_decode_reset : decode 0x10000000000000000#67 = .instr .reset := by decide
/-- R87: ignored fields of RESET hold any value. -/
theorem test_decode_reset_ignored : decode 0x1FFFFFFFF12345678#67 = .instr .reset := by decide
/-- R96: `0x2_00000004_DEADBEEF`. -/
theorem test_decode_wb_write :
    decode 0x200000004DEADBEEF#67 = .instr (.wbWrite 0x00000004#32 0xDEADBEEF#32) := by decide
/-- V-WB-11: `0x2_FFFFFFFF_00000000`. -/
theorem test_decode_wb_write_extreme :
    decode 0x2FFFFFFFF00000000#67 = .instr (.wbWrite 0xFFFFFFFF#32 0x00000000#32) := by decide
/-- R96: `0x3_00000004_00000000`; the data field is ignored. -/
theorem test_decode_wb_read : decode 0x300000004FFFFFFFF#67 = .instr (.wbRead 0x00000004#32) := by decide
/-- R96: `0x4_00000000_00008001`, bit by bit. -/
theorem test_decode_spi_exchange :
    decode ((0b100#3 ++ (0#32 ++ 0b00000000000000001000000000000001#32)).cast (show 3 + (32 + 32) = 67 from rfl)) =
      .instr (.spiExchange 0x8001#16) := by decide
/-- V-SPI-7: the upper half of the data field is ignored. -/
theorem test_decode_spi_upper_half : decode 0x400000000FFFF8001#67 = .instr (.spiExchange 0x8001#16) := by decide
/-- V-EXC-5 and R82: the reserved opcodes, the all-zero word among them. -/
theorem test_decode_reserved :
    decode 0#67 = .reserved 0#3 ∧ decode 0x50000000000000000#67 = .reserved 5#3 ∧
    decode 0x60000000000000000#67 = .reserved 6#3 ∧ decode 0x7FFFFFFFFFFFFFFFF#67 = .reserved 7#3 := by decide
/-- Numbered as the opcode table numbers them; 72 bits are the word's 67 in whole bytes, and no higher bit. -/
theorem test_decode_table_word :
    decodeTableWord 72 0x40000000000008842 = some (.spiExchange 0x8842#16) ∧
    decodeTableWord 72 0 = none ∧ decodeTableWord 72 0x810000000000000000 = none := by decide

/-! ### One step of each command -/

/-- V-RST-1, after edge 1: `ctl = 4`, `dut_rst = 1`, bus outputs 0. -/
theorem test_reset_accept :
    goesTo (exec .reset (at12 usual Regs.por [] [low])) (fun t =>
      t.regs.ctl = .rstAssert && t.regs.dutRst && t.regs.bus = BusOut.por && t.ci == 1) = true := by decide
/-- V-RST-2, after `a + 2`: IDLE with `reset_done = 1` and a response of RESET. -/
theorem test_reset_last_edge :
    goesTo (step (at12 short { Regs.por with ctl := .rstRelease } [] [high])) (fun t =>
      t.regs.ctl = .idle && t.regs.resetDone && t.regs.rsp = ⟨true, 1#3, 0#32⟩ && t.regs.status = 0x00000080#32) =
      true := by decide
/-- V-WB-2, after edge 12: the request driven. -/
theorem test_wb_write_accept :
    goesTo (exec (.wbWrite 4#32 0xDEADBEEF#32) (at12 usual ready [] [low])) (fun t =>
      t.regs.bus = ⟨true, true, true, 0xF#4, 4#32, 0xDEADBEEF#32⟩ && ctlCode t.regs.ctl = 1#4) = true := by decide
/-- V-WB-4, at `a + 4`: AckTimeout at the N-th edge, STATUS `0x000002AF` as in P3, the request still driven. -/
theorem test_wb_write_timeout :
    goesTo (step (at12 usual { ready with
        ctl := .awaitAckRise, cnt := 3#32, txnOp := 2#3, txnAddr := 0x10#32
        bus := ⟨true, true, true, 0xF#4, 0x10#32, 1#32⟩ } [] [low])) (fun t =>
      t.regs.status = 0x000002AF#32 && t.regs.err.addr = 0x10#32 && t.regs.err.elapsed = 4#32 &&
        t.regs.bus.stb) = true := by decide
/-- V-WB-6, at `a + 2`: the word on the lines is captured and the bus idled. -/
theorem test_wb_read_rise :
    goesTo (step (at12 usual { ready with
        ctl := .awaitAckRise, cnt := 1#32, txnOp := 3#3, txnAddr := 4#32
        bus := ⟨true, true, false, 0xF#4, 4#32, 0#32⟩ } [] [high])) (fun t =>
      t.regs.rdata = 0xDEADBEEF#32 && t.regs.bus = BusOut.por && ctlCode t.regs.ctl = 3#4) = true := by decide
/-- V-WB-8 and V-EXC-1: an acknowledge already high raises ProtocolPrecondition, STATUS `0x0000039F`. -/
theorem test_wb_read_stale_ack :
    goesTo (exec (.wbRead 0#32) (at12 usual ready [] [high])) (fun t =>
      t.regs.status = 0x0000039F#32 && t.regs.bus = BusOut.por) = true := by decide
/-- V-SPI-1, after edge 1: selected, 16 bits to send. -/
theorem test_spi_accept :
    goesTo (exec (.spiExchange 0x8001#16) (at12 usual Regs.por [] [low])) (fun t =>
      t.regs.link = ⟨false, false, false⟩ && ctlCode t.regs.ctl = 6#4 && t.regs.bitcnt = 16#5 &&
        t.regs.shreg = 0x8001#16) = true := by decide
/-- V-SPI-1, edge 15: the first sample edge, STATUS `0x00007808`. -/
theorem test_spi_first_sample :
    goesTo (step (at12 usual { Regs.por with
        ctl := .spiBitHigh, cnt := 6#32, bitcnt := 16#5, shreg := 0x8001#16, link := ⟨false, true, true⟩ } []
        [miso])) (fun t =>
      t.regs.rxacc = 1#16 && t.regs.status = 0x00007808#32 && !t.regs.link.sclk) = true := by decide

/-! ### Sequencing layer -/

/-- V-L1-6: the halves for pins 31 and 33. -/
theorem test_set_oe_halves :
    oeLo 31 = 0x80000000#32 ∧ oeHi 31 = 0#32 ∧ oeLo 33 = 0#32 ∧ oeHi 33 = 2#32 := by decide
/-- R89: a serial value over 0xFFFF is an error of the text. -/
theorem test_spi_value_too_large (q : SeqParams) : assemble q (.spiExchange 0x10000) = none := by
  simp [assemble]
/-- R95: a pin that is not below `NUM_PINS` is an error of the text. -/
theorem test_set_oe_pin_too_high (q : SeqParams) : assemble q (.setOe q.numPins.val) = none := by
  simp [assemble]
/-- R89 and R96: a line of the text form, with a comment, and its command word. -/
theorem test_read_wb_write :
    readLine "  WB_WRITE 0x00000004, 0xDEADBEEF ; worked".toList = some [.wbWrite 4#32 0xDEADBEEF#32] ∧
    encode (.wbWrite 4#32 0xDEADBEEF#32) = 0x200000004DEADBEEF#67 := by decide
/-- R89: decimal numbers, lines of comment only, and operands that the command does not have. -/
theorem test_read_lines :
    readLine "SPI_EXCHANGE 32769".toList = some [.spiExchange 0x8001] ∧ readLine "; note".toList = some [] ∧
    readLine "RESET 1".toList = none ∧ readLine "SET_OE 33".toList = some [.setOe 33] := by decide

/-! ### Witnesses: each statement's hypotheses met together

`test_meets_<name>` is about the statement `Obligations.<name>`; a statement with several clauses or a
hypothesis with several cases has one for each. -/

theorem test_meets_EncodeOfDecodeKeepsUsedBits : decode 0x4FFFFFFFFFFFF8001#67 = .instr (.spiExchange 0x8001#16) := by
  decide

theorem test_meets_IgnoredFieldsDoNotChangeTheCommand :
    decode 0x30000000400000000#67 = .instr (.wbRead 4#32) ∧
    decode (0x30000000400000000#67 ^^^ (0x7FFFFFFFFFFFFFFFF#67 &&& ~~~ usedBits (.wbRead 4#32))) =
      .instr (.wbRead 4#32) := by decide

theorem test_meets_StepRunsTheDecodedCommand :
    (idle [0x10000000000000000#67] [low]).presented = some 0x10000000000000000#67 ∧
    decode 0x10000000000000000#67 = .instr .reset := by decide

theorem test_meets_StepRunsThePlacedWord :
    decodeTableWord 67 0x200000004DEADBEEF = some (.wbWrite 4#32 0xDEADBEEF#32) := by decide

theorem test_meets_CommandPortsIgnoredUnlessAccepting_por : (idle [] [porEdge]).sample.por = true := by decide
theorem test_meets_CommandPortsIgnoredUnlessAccepting_busy : (inCtl .awaitAckFall [low]).regs.ctl ≠ .idle := by
  decide

/-- The command index moves at an accept edge. -/
theorem test_meets_CommandIndexAdvancesAtAcceptEdgesOnly_accept :
    goesTo (step (idle [0x10000000000000000#67] [low])) (fun t => t.ci == 1) = true := by decide
/-- It stays at an edge at which the block is busy. -/
theorem test_meets_CommandIndexAdvancesAtAcceptEdgesOnly_busy :
    goesTo (step { inCtl .rstAssert [low] with program := [0x10000000000000000#67] }) (fun t => t.ci == 0) =
      true := by decide
/-- And at a POR edge. -/
theorem test_meets_CommandIndexAdvancesAtAcceptEdgesOnly_por :
    goesTo (step (idle [0x10000000000000000#67] [porEdge])) (fun t => t.ci == 0) = true := by decide

/-- V-EXC-5: the word `0x5_00000000_00000000` at an accept edge; and the all-zero word. -/
theorem test_meets_ReservedOpcodeIsRefusedWhenAccepted :
    (idle [0x50000000000000000#67] [low]).Accepting ∧
    (idle [0x50000000000000000#67] [low]).presented = some 0x50000000000000000#67 ∧
    fieldOp 0x50000000000000000#67 = 0b101#3 ∧
    (idle [0#67] [low]).Accepting ∧ (idle [0#67] [low]).presented = some 0#67 ∧ fieldOp 0#67 = 0b000#3 := by decide

/-- V-WB-12: a WB_WRITE before RESET. -/
theorem test_meets_OnlyTwoRefusals_before_reset :
    step (at12 usual Regs.por [0x20000000400000001#67] [low]) = .refused .transactionBeforeReset := rfl
theorem test_meets_OnlyTwoRefusals_reserved :
    step (at12 usual Regs.por [0x50000000000000000#67] [low]) = .refused (.reservedOpcode 5#3) := rfl

theorem test_meets_QuietEdgeKeepsEveryRegister : (idle [] [low]).Accepting ∧ (idle [] [low]).presented = none := by
  decide

theorem test_meets_PorEdgeGivesPorValues_por : (inCtl .halted [porEdge]).sample.por = true := by decide
/-- A POR edge leaves HALTED. -/
theorem test_meets_PorEdgeGivesPorValues_leaves :
    goesTo (step (inCtl .halted [porEdge])) (fun t => t.regs.ctl != .halted) = true := by decide

/-! #### RESET -/

theorem test_meets_ResetAcceptEdge : (at12 usual Regs.por [] [high]).Accepting := by decide

/-- At the last edge of the phase (A = 1) and before it (A = 5). -/
theorem test_meets_RstAssertEdge :
    (inCtl .rstAssert [low]).sample.por = false ∧ (inCtl .rstAssert [low]).Live ∧
    (inCtl .rstAssert [low]).regs.ctl = .rstAssert ∧
    (inCtl .rstAssert [low]).regs.cnt.toNat + 1 = short.resetAssert.val ∧
    (at12 usual (inCtl .rstAssert []).regs [] [low]).sample.por = false ∧
    (at12 usual (inCtl .rstAssert []).regs [] [low]).regs.cnt.toNat + 1 ≠ usual.resetAssert.val := by decide

theorem test_meets_RstReleaseEdge :
    (inCtl .rstRelease [low]).sample.por = false ∧ (inCtl .rstRelease [low]).Live ∧
    (inCtl .rstRelease [low]).regs.ctl = .rstRelease ∧
    (inCtl .rstRelease [low]).regs.cnt.toNat + 1 = short.resetRelease.val ∧
    (at12 usual (inCtl .rstRelease []).regs [] [low]).sample.por = false ∧
    (at12 usual (inCtl .rstRelease []).regs [] [low]).regs.cnt.toNat + 1 ≠ usual.resetRelease.val := by decide

/-- The shortest RESET (A = B = 1), with the acknowledge high. -/
theorem test_meets_ResetCompletesAfterItsCycles :
    (at12 short Regs.por [] [high, high, high]).Accepting ∧
    (at12 short Regs.por [] [high, high, high]).PorLow (1 + 1 + 1) := by decide

/-- With A = 5. -/
theorem test_meets_ResetHoldsDutResetForAssertCycles :
    (at12 usual Regs.por [] [low, low, low, low, low, low]).Accepting ∧
    (at12 usual Regs.por [] [low, low, low, low, low, low]).PorLow (usual.resetAssert.val + 1) := by decide

theorem test_meets_TransactionBeforeResetIsRefused :
    (at12 usual Regs.por [] [high]).Accepting ∧ (at12 usual Regs.por [] [high]).regs.resetDone = false := by decide

/-! #### WB_WRITE and WB_READ -/

theorem test_meets_WbRequestDrive :
    (idle [] [low]).Accepting ∧ (idle [] [low]).regs.resetDone = true ∧ (idle [] [low]).sample.wbAck = false := by
  decide

theorem test_meets_StaleAcknowledgeRaisesProtocolPrecondition :
    (idle [] [high]).Accepting ∧ (idle [] [high]).regs.resetDone = true ∧ (idle [] [high]).sample.wbAck = true := by
  decide

/-- Each clause: the rise from either state, the timeout at N = 2, and one edge more. -/
theorem test_meets_AckRiseWaitEdge :
    ((inCtl .requestAsserted [high]).sample.por = false ∧ (inCtl .requestAsserted [high]).Live ∧
      (inCtl .requestAsserted [high]).sample.wbAck = true) ∧
    ((inCtl .awaitAckRise [high]).sample.por = false ∧ (inCtl .awaitAckRise [high]).sample.wbAck = true) ∧
    ((inCtl .requestAsserted [low]).sample.wbAck = false ∧
      (inCtl .requestAsserted [low]).regs.cnt.toNat + 1 ≠ short.ackTimeout.val) ∧
    ((at12 short { ready with ctl := .awaitAckRise, cnt := 1#32 } [] [low]).sample.wbAck = false ∧
      (1#32).toNat + 1 = short.ackTimeout.val) := by decide

/-- Each clause: the release, the timeout at N = 2, and one edge more. -/
theorem test_meets_AckFallWaitEdge :
    ((inCtl .awaitAckFall [low]).sample.por = false ∧ (inCtl .awaitAckFall [low]).Live ∧
      (inCtl .awaitAckFall [low]).sample.wbAck = false) ∧
    ((inCtl .awaitAckFall [high]).sample.wbAck = true ∧
      (inCtl .awaitAckFall [high]).regs.cnt.toNat + 1 ≠ short.ackTimeout.val) ∧
    ((at12 short { ready with ctl := .awaitAckFall, cnt := 1#32 } [] [high]).sample.wbAck = true ∧
      (1#32).toNat + 1 = short.ackTimeout.val) := by decide

/-- The shortest transaction: k = j = 1. -/
theorem test_meets_WbWriteCompletes_shortest :
    (idle [] [low, high, low]).Accepting ∧ (idle [] [low, high, low]).regs.resetDone = true ∧
    (1 ≤ 1 ∧ 1 ≤ short.ackTimeout.val) ∧ (idle [] [low, high, low]).PorLow (1 + 1 + 1) ∧
    (∀ i, i < 1 → ((idle [] [low, high, low]).sampleAt i).wbAck = false) ∧
    (∀ i, 1 ≤ i → i < 1 + 1 → ((idle [] [low, high, low]).sampleAt i).wbAck = true) ∧
    ((idle [] [low, high, low]).sampleAt (1 + 1)).wbAck = false := by decide

/-- The last permitted edges: k = j = N = 2. -/
theorem test_meets_WbWriteCompletes_longest :
    (idle [] [low, low, high, high, low]).Accepting ∧ (idle [] [low, low, high, high, low]).regs.resetDone = true ∧
    (1 ≤ 2 ∧ 2 ≤ short.ackTimeout.val) ∧ (idle [] [low, low, high, high, low]).PorLow (2 + 2 + 1) ∧
    (∀ i, i < 2 → ((idle [] [low, low, high, high, low]).sampleAt i).wbAck = false) ∧
    (∀ i, 2 ≤ i → i < 2 + 2 → ((idle [] [low, low, high, high, low]).sampleAt i).wbAck = true) ∧
    ((idle [] [low, low, high, high, low]).sampleAt (2 + 2)).wbAck = false := by decide

/-- V-WB-6's lengths: k = 2, j = 1. -/
theorem test_meets_WbReadCompletes :
    (idle [] [low, low, high, low]).Accepting ∧ (idle [] [low, low, high, low]).regs.resetDone = true ∧
    (1 ≤ 2 ∧ 2 ≤ short.ackTimeout.val ∧ 1 ≤ 1 ∧ 1 ≤ short.ackTimeout.val) ∧
    (idle [] [low, low, high, low]).PorLow (2 + 1 + 1) ∧
    (∀ i, i < 2 → ((idle [] [low, low, high, low]).sampleAt i).wbAck = false) ∧
    (∀ i, 2 ≤ i → i < 2 + 1 → ((idle [] [low, low, high, low]).sampleAt i).wbAck = true) ∧
    ((idle [] [low, low, high, low]).sampleAt (2 + 1)).wbAck = false ∧
    ((idle [] [low, low, high, low]).sampleAt 2).wbDatOut = 0xDEADBEEF#32 := by decide

theorem test_meets_WbWriteRequestHeldUntilAcknowledged :
    (idle [] [low, low]).Accepting ∧ (idle [] [low, low]).regs.resetDone = true ∧ 1 < short.ackTimeout.val ∧
    (idle [] [low, low]).PorLow (1 + 1) ∧
    (∀ i, i < 1 + 1 → ((idle [] [low, low]).sampleAt i).wbAck = false) := by decide

theorem test_meets_NoAcknowledgeRaisesAckTimeoutAtN :
    (idle [] [low, low, low]).Accepting ∧ (idle [] [low, low, low]).regs.resetDone = true ∧
    (idle [] [low, low, low]).PorLow (short.ackTimeout.val + 1) ∧
    (∀ i, i < short.ackTimeout.val + 1 → ((idle [] [low, low, low]).sampleAt i).wbAck = false) := by decide

/-- k = 1 and N = 2. -/
theorem test_meets_HeldAcknowledgeRaisesAckNotReleasedAtN :
    (idle [] [low, high, high, high]).Accepting ∧ (idle [] [low, high, high, high]).regs.resetDone = true ∧
    (1 ≤ 1 ∧ 1 ≤ short.ackTimeout.val) ∧
    (idle [] [low, high, high, high]).PorLow (1 + short.ackTimeout.val + 1) ∧
    (∀ i, i < 1 → ((idle [] [low, high, high, high]).sampleAt i).wbAck = false) ∧
    (∀ i, 1 ≤ i → i < 1 + short.ackTimeout.val + 1 →
      ((idle [] [low, high, high, high]).sampleAt i).wbAck = true) := by decide

/-! #### SPI_EXCHANGE -/

theorem test_meets_SpiAcceptEdge : (at12 usual Regs.por [] [high]).Accepting := by decide

/-- For `SpiCsSetupEdge`, `SpiBitHighEdge`, `SpiBitLowEdge` and `SpiTailEdge`: each phase at its last edge
(S = 1) and before it (S = 7). -/
theorem test_meets_SpiPhaseEdges :
    [Ctl.spiCsSetup, .spiBitHigh, .spiBitLow, .spiTail].all (fun c =>
      !(inCtl c [miso]).sample.por && decide ((inCtl c [miso]).Live) && (inCtl c [miso]).regs.ctl == c &&
      (inCtl c [miso]).atLimit short.settle && !(at12 usual (inCtl c []).regs [] [miso]).atLimit usual.settle) =
      true := by decide

/-- SPI_BIT_LOW with bits left and with none. -/
theorem test_meets_SpiBitLowEdge :
    0 < (at12 short { ready with ctl := .spiBitLow, bitcnt := 1#5 } [] [low]).regs.bitcnt.toNat ∧
    (inCtl .spiBitLow [low]).regs.bitcnt.toNat = 0 := by decide

/-- A whole exchange with S = 1: 35 edges. -/
theorem test_meets_SpiExchangeCompletesWithReceivedBits :
    (at12 short Regs.por [] (List.replicate 35 miso)).Accepting ∧
    (at12 short Regs.por [] (List.replicate 35 miso)).PorLow (34 * short.settle.val + 1) := by decide

/-- The first bit and the last. -/
theorem test_meets_SpiBitSentAtItsSampleEdge :
    (at12 short Regs.por [] (List.replicate 35 miso)).Accepting ∧
    (at12 short Regs.por [] (List.replicate 35 miso)).PorLow (2 * short.settle.val + 2 * 0 * short.settle.val) ∧
    (at12 short Regs.por [] (List.replicate 35 miso)).PorLow (2 * short.settle.val + 2 * 15 * short.settle.val) := by
  decide

/-! #### Errors and HALTED -/

/-- Each of the three ways into HALTED. -/
theorem test_meets_EnteringHaltedRecordsAnErrorAndKeepsOutputs :
    goesTo (step (idle [0x20000001000000001#67] [high])) (fun t =>
      t.regs.ctl == .halted && t.regs.err.code == .protocolPrecondition) = true ∧
    goesTo (step (at12 short { ready with ctl := .awaitAckRise, cnt := 1#32 } [] [low])) (fun t =>
      t.regs.ctl == .halted && t.regs.err.code == .ackTimeout) = true ∧
    goesTo (step (at12 short { ready with ctl := .awaitAckFall, cnt := 1#32 } [] [high])) (fun t =>
      t.regs.ctl == .halted && t.regs.err.code == .ackNotReleased) = true := by decide

/-- HALTED with `por` low at three edges, and HALTED at a POR edge. -/
theorem test_meets_HaltedIsSticky :
    (inCtl .halted [high, low, high]).regs.ctl = .halted ∧ (inCtl .halted [high, low, high]).Live ∧
    (inCtl .halted [high, low, high]).PorLow (2 + 1) ∧ (inCtl .halted [porEdge]).sample.por = true := by decide

/-- A reserved `ctl` code, and a reserved `err_code`, without POR and with it. -/
theorem test_meets_StuckExactlyOnReservedCodes :
    step (inCtl (.reserved 0) [low]) = .fault (.reservedCtl 0) ∧
    step (at12 short { ready with err := { ErrCtx.por with code := .reserved 3 } } [] [low]) =
      .fault (.reservedErrCode 3) ∧
    goesTo (step (inCtl (.reserved 4) [porEdge])) (fun t => t.regs.ctl == .idle) = true := ⟨rfl, rfl, by decide⟩

/-- An edge that responds, and one that does not. -/
theorem test_meets_ResponseIsValidOnlyAfterACompletionEdge :
    goesTo (step (inCtl .spiTail [low])) (fun t => t.regs.rsp.valid) = true ∧
    goesTo (step (inCtl .spiCsSetup [low])) (fun t => !t.regs.rsp.valid) = true := by decide

/-! #### Frames and lines not read -/

/-- RESET's accept edge and both of its phases. -/
theorem test_meets_ResetFrame :
    [Ctl.idle, .rstAssert, .rstRelease].all (fun c =>
      goesTo (exec .reset (inCtl c [high])) (fun _ => !(inCtl c [high]).sample.por)) = true := by decide

/-- The accept edge and the waits of both WB commands, the rise that writes `rdata` and the error included. -/
theorem test_meets_WbFrame :
    [Ctl.idle, .requestAsserted, .awaitAckRise, .awaitAckFall].all (fun c =>
      [low, high].all (fun x =>
        goesTo (exec (.wbWrite 4#32 7#32) (inCtl c [x])) (fun _ => !(inCtl c [x]).sample.por) &&
        goesTo (exec (.wbRead 4#32) (inCtl c [x])) (fun _ => !(inCtl c [x]).sample.por))) = true := by decide

/-- WB_READ's rise edge writes `rdata`; a fall-wait edge with the acknowledge high does not (V-WB-10). -/
theorem test_meets_WbFrame_rdata :
    goesTo (exec (.wbRead 4#32) (at12 short { ready with ctl := .awaitAckRise, txnOp := 3#3 } [] [high])) (fun t =>
      t.regs.ctl == .awaitAckFall && t.regs.rdata == 0xDEADBEEF#32) = true ∧
    goesTo (exec (.wbRead 4#32) (at12 short { ready with ctl := .awaitAckFall, txnOp := 3#3 } [] [high])) (fun t =>
      t.regs.ctl == .awaitAckFall && t.regs.rdata == 0#32) = true := by decide

/-- SPI_EXCHANGE's accept edge and its phases. -/
theorem test_meets_SpiFrame :
    [Ctl.idle, .spiCsSetup, .spiBitHigh, .spiBitLow, .spiTail].all (fun c =>
      goesTo (exec (.spiExchange 0x8001#16) (inCtl c [high])) (fun _ => !(inCtl c [high]).sample.por)) = true := by
  decide

theorem test_meets_ResetAndSpiIgnoreTheBusLines :
    (idle [] [low]).regs.ctl ≠ .requestAsserted ∧ (idle [] [low]).regs.ctl ≠ .awaitAckRise ∧
    (idle [] [low]).regs.ctl ≠ .awaitAckFall := by decide

theorem test_meets_ResetAndWbIgnoreMiso : (inCtl .awaitAckRise [low]).regs.ctl ≠ .spiBitHigh := by decide

/-! #### The whole machine -/

/-- A block in RST_ASSERT, its RESET accepted at the edge before. -/
def resetting : State :=
  { at12 short { Regs.por with ctl := .rstAssert, dutRst := true } [] [low] with
    flight := some { acceptEdge := 11, operand := 0#32, riseLen := 0 } }

/-- The last edge of a one-command program's RESET, accepted two edges before. -/
def released : State :=
  { at12 short { Regs.por with ctl := .rstRelease } [0x10000000000000000#67] [low] with
    ci := 1, flight := some { acceptEdge := 10, operand := 0#32, riseLen := 0 } }

/-- A block in REQUEST_ASSERTED, its WB_WRITE accepted at the edge before. -/
def requesting : State :=
  { at12 short { ready with
      ctl := .requestAsserted, txnOp := 2#3, txnAddr := 4#32
      bus := ⟨true, true, true, 0xF#4, 4#32, 7#32⟩ } [] [high] with
    flight := some { acceptEdge := 11, operand := 7#32, riseLen := 0 } }

theorem test_meets_EveryStepKeepsTheInvariant_resetting :
    resetting.Inv ∧ goesTo (step resetting) (fun t => t.regs.ctl == .rstRelease) = true := by
  refine ⟨⟨by decide, ?_, trivial, ⟨rfl, rfl⟩, rfl, rfl, ?_, rfl, by decide, ⟨rfl, rfl⟩, trivial, trivial⟩, by decide⟩
  · show resetting.regs.bus.Idle
    decide
  · show resetting.regs.cnt.toNat < resetting.params.resetAssert.val
    decide

theorem test_meets_EveryStepKeepsTheInvariant_requesting :
    requesting.Inv ∧ goesTo (step requesting) (fun t => t.regs.ctl == .awaitAckFall) = true := by
  refine ⟨⟨by decide, ?_, ?_, ⟨rfl, rfl⟩, rfl, rfl, rfl, rfl, by decide, ⟨rfl, rfl⟩, ⟨rfl, fun _ => rfl⟩, trivial⟩,
    by decide⟩
  · show requesting.regs.Requesting
    decide
  · exact ⟨.inl rfl, rfl, rfl⟩

/-- A run from `launch_clean` that reaches a request being made. -/
theorem test_meets_RunsKeepTheBusIdleBetweenRequests :
    goesTo (runEdges 4 (State.launchClean short [0x10000000000000000#67, 0x20000000400000007#67]
      [low, low, low, low])) (fun t => t.regs.ctl == .requestAsserted && t.regs.bus.stb) = true := by decide

theorem test_meets_EveryBusyEdgeComesNearerCompletion :
    resetting.Inv ∧ resetting.regs.busy = true ∧ resetting.sample.por = false ∧
    goesTo (step resetting) (fun t => t.regs.remaining t.params == 1) = true ∧
    resetting.regs.remaining resetting.params = 2 :=
  ⟨test_meets_EveryStepKeepsTheInvariant_resetting.1, by decide⟩

/-- An edge of a failure that adds an event, one of a completion, and one that adds none. -/
theorem test_meets_RecordGrowsByCompletionsAndErrors :
    goesTo (step (idle [0x30000000000000000#67] [high])) (fun t =>
      t.history == [.error 3#3 0#32 .protocolPrecondition 0#32]) = true ∧
    goesTo (step released) (fun t => t.history == [.reset 10]) = true ∧
    goesTo (step resetting) (fun t => t.history == []) = true := by decide

theorem test_meets_TimeoutCyclesAreTheLeastThatCoverTheBound :
    (0 < 100000 ∧ 0 < 25) ∧ Config.timeoutCyclesOf 100000 25 = 4000 := by decide

/-- An array of 38 pins; pin 33 is below it. -/
theorem test_meets_SetOeWritesOneBitAcrossTwoHalves :
    33 < ({ pselAddr := 0#32, oeLoAddr := 8#32, oeHiAddr := 12#32, numPins := 38,
            spiPinMap := ⟨8, 9, 10, 11⟩ } : SeqParams).numPins.val := by decide

/-! #### The end of a run -/

/-- A run of one RESET with A = B = 1, from `launch_clean`. -/
def oneReset : State := State.launchClean short [0x10000000000000000#67] [low, low, low]

theorem test_meets_EveryStepKeepsTheTally :
    oneReset.Tally ∧ goesTo (step oneReset) (fun t => t.regs.busy && t.completed == 0 && t.ci == 1) = true :=
  ⟨⟨by decide, by decide, by decide⟩, by decide⟩

theorem test_meets_CompletionOfTheLastCommandEndsTheRun :
    released.ci = released.program.length ∧ released.hasFailed = false ∧
    goesTo (step released) (fun t => t.regs.rsp.valid && decide t.Ended) = true := by decide

/-- HALTED, with the error event in the record, then POR: no end (P3 and V-EXC-4). -/
theorem test_meets_FailedOrAbandonedRunNeverEnds_failed :
    let s := { inCtl .halted [porEdge] with
      program := [0x20000001000000001#67], ci := 1, history := [.error 2#3 0x10#32 .ackTimeout 2#32] }
    s.Tally ∧ s.regs.ctl = .halted ∧ s.hasFailed = true ∧ goesTo (step s) (fun t => !decide t.Ended) = true :=
  ⟨⟨by decide, by decide, by decide⟩, by decide, by decide, by decide⟩

/-- The last command abandoned by POR: no end (V-RST-5, "No RESET response is produced"). -/
theorem test_meets_FailedOrAbandonedRunNeverEnds_abandoned :
    let s := { released with inputs := [porEdge] }
    s.Tally ∧ s.ci = s.program.length ∧ s.regs.busy = true ∧ s.sample.por = true ∧
    goesTo (step s) (fun t => t.regs.ctl == .idle && t.ci == 1 && !decide t.Ended) = true :=
  ⟨⟨by decide, by decide, by decide⟩, by decide, by decide, by decide, by decide⟩

/-- The run of one RESET ends 3 edges on: its accept edge, then A + B (V-RST-2). -/
theorem test_meets_RunEndsAtACompletionEdge : ∃ t, oneReset.EndsAfter 3 t := by
  refine ⟨_, rfl, by decide, fun m u hm h => ?_⟩
  match m, hm with
  | 0, _ | 1, _ | 2, _ => cases h; decide

/-- The same run, without a further POR edge, has one response. -/
theorem test_meets_EndedRunHasOneResponsePerCommand :
    oneReset.PorLow 3 ∧
    goesTo (runEdges 3 oneReset) (fun t => decide t.Ended && t.result.1 == [(1#3, 0#32)]) = true := by decide

end Sys2Proof.Tests
end

namespace Sys2Proof.Machine

open Sys2Proof

section StateEdges

variable {s t : State}

/-! ### The command index and POR at one edge (`10_state.md` R21, R46) -/

theorem Regs.ctl_ne_idle_of_busy {r : Regs} (h : r.busy = true) : r.ctl ≠ .idle := by
  intro hc
  simp [Regs.busy, hc] at h

/-- An edge at which a command could be accepted and none is presented only passes (`00_scope.md` R19). -/
theorem step_of_accepting_of_presented_none (ha : s.Accepting) (hn : s.presented = none) :
    step s = .next s.tick := by
  rw [step_eq_edgeWith, edgeWith_accepting ha]
  simp only [onPorts, hn]

/-- An IDLE block's index moves only for a command on the ports. -/
theorem cmdValid_of_accepting_of_ci_succ (ha : s.Accepting) (h : step s = .next t) (hci : t.ci = s.ci + 1) :
    s.cmdValid = true := by
  cases hw : s.presented with
  | some w => simp [State.cmdValid, hw]
  | none =>
    rw [step_of_accepting_of_presented_none ha hw] at h
    cases h
    simp at hci

/-- The command index after every step, kind of edge by kind of edge. -/
theorem step_ci (h : step s = .next t) :
    t.ci = if s.cmdValid = true ∧ s.sample.por = false ∧ s.regs.ctl = .idle then s.ci + 1 else s.ci := by
  cases step_edgeKind h with
  | por high next => rw [if_neg (by simp [high]), next]; rfl
  | quiet _ hn next => rw [if_neg (by simp [State.cmdValid, hn]), next]; rfl
  | start acc _ _ ci | failAtAccept acc ci =>
    have hv := cmdValid_of_accepting_of_ci_succ acc h ci
    obtain ⟨low, idle, -⟩ := acc
    rw [if_pos ⟨hv, low, idle⟩, ci]
  | work _ was _ _ same => rw [if_neg (by simp [Regs.ctl_ne_idle_of_busy was]), same.ci]
  | complete _ was done => rw [if_neg (by simp [Regs.ctl_ne_idle_of_busy was]), done.ci]
  | fail _ was ci => rw [if_neg (by simp [Regs.ctl_ne_idle_of_busy was]), ci]
  | halted _ was next => rw [if_neg (by simp [was]), next]; rfl

theorem step_por (hp : s.sample.por = true) : step s = .next s.tick.powerOn := by
  rw [step_eq_edgeWith, edgeWith_por hp]

theorem exec_por (i : Instr) (hp : s.sample.por = true) : exec i s = .next s.tick.powerOn := by
  rw [exec_eq_edgeWith, edgeWith_por hp]

/-- In HALTED with `por` low an edge only passes (`60_exceptions.md` R177). -/
theorem eq_tick_of_step_halted (h : step s = .next t) (hc : s.regs.ctl = .halted)
    (hp : s.sample.por = false) : t = s.tick := by
  rw [step_eq_edgeWith] at h
  obtain ⟨high, -⟩ | ⟨⟨-, idle, -⟩, -⟩ | ⟨-, -, -, -, rfl⟩ := edgeWith_next h
  · simp [hp] at high
  · simp [hc] at idle
  · simp only [phaseResult, hc, haltedStep]

end StateEdges

/-- Settles O9: the index starts at 0, and `step_ci` gives it after every step. -/
theorem commandIndexAdvancesAtAcceptEdgesOnly : Obligations.CommandIndexAdvancesAtAcceptEdgesOnly :=
  ⟨rfl, fun _ _ h => step_ci h⟩

/-- Settles O14: with `por` high `step` and every `exec` are the POR edge; with `por` low a HALTED block
stays HALTED. -/
theorem porEdgeGivesPorValues : Obligations.PorEdgeGivesPorValues := by
  refine ⟨fun s hp => ⟨⟨s.tick.powerOn, step_por hp, rfl, rfl⟩, fun i => ?_⟩, fun s t h hc hleft => ?_⟩
  · rw [exec_por i hp, step_por hp]
  · by_contra hlow
    have ht := eq_tick_of_step_halted h hc (Bool.eq_false_of_not_eq_true hlow)
    exact hleft (by rw [ht, State.tick_regs, hc])

end Sys2Proof.Machine

namespace Sys2Proof

section Decoder

variable {w : CmdWord} {op : OpCode}

/-! ### The opcode table as the decoder answers it (`30_encoding.md` R82, R85, R86) -/

/-- The opcodes to which R82 gives no command. -/
abbrev ReservedOp (op : OpCode) : Prop := op = 0b000#3 ∨ op = 0b101#3 ∨ op = 0b110#3 ∨ op = 0b111#3

/-- The reserved opcodes are those the check on a command's fields refuses. -/
theorem reservedOp_iff_not_wellFormed (c : Cmd) : ReservedOp c.op ↔ ¬ c.wellFormed = true := by
  have hall : ∀ op : OpCode, ReservedOp op ↔ ¬ (op = 1#3 ∨ op = 2#3 ∨ op = 3#3 ∨ op = 4#3) := by decide
  simpa [Cmd.wellFormed, or_assoc] using hall c.op

/-- The opcode that the decoder's answer stands for. -/
def Decoded.opcode : Decoded → OpCode
  | .instr i     => opcodeOf i
  | .reserved op => op

/-- The decoder answers for the opcode it reads and for no other. -/
theorem opcode_decode (w : CmdWord) : (decode w).opcode = fieldOp w := by
  unfold decode decodeCmd
  split_ifs with h1 h2 h3 h4
  · exact h1.symm
  · exact h2.symm
  · exact h3.symm
  · exact h4.symm
  · rfl

theorem fieldOp_of_decode {d : Decoded} (h : decode w = d) : fieldOp w = d.opcode := by
  rw [← opcode_decode, h]

theorem decode_of_reset (h : fieldOp w = opReset) : decode w = .instr .reset :=
  if_pos h

theorem decode_of_wbWrite (h : fieldOp w = opWbWrite) :
    decode w = .instr (.wbWrite (fieldAddr w) (fieldData w)) := by
  simp [decode, decodeCmd, cmdOfWord, h, opReset, opWbWrite]

theorem decode_of_wbRead (h : fieldOp w = opWbRead) : decode w = .instr (.wbRead (fieldAddr w)) := by
  simp [decode, decodeCmd, cmdOfWord, h, opReset, opWbWrite, opWbRead]

theorem decode_of_spiExchange (h : fieldOp w = opSpiExchange) :
    decode w = .instr (.spiExchange (fieldValue (fieldData w))) := by
  simp [decode, decodeCmd, cmdOfWord, h, opReset, opWbWrite, opWbRead, opSpiExchange]

theorem decode_eq_reset_iff : decode w = .instr .reset ↔ fieldOp w = opReset :=
  ⟨fieldOp_of_decode, decode_of_reset⟩

theorem decode_eq_wbWrite_iff : (∃ a d, decode w = .instr (.wbWrite a d)) ↔ fieldOp w = opWbWrite :=
  ⟨fun ⟨_, _, h⟩ => fieldOp_of_decode h, fun h => ⟨_, _, decode_of_wbWrite h⟩⟩

theorem decode_eq_wbRead_iff : (∃ a, decode w = .instr (.wbRead a)) ↔ fieldOp w = opWbRead :=
  ⟨fun ⟨_, h⟩ => fieldOp_of_decode h, fun h => ⟨_, decode_of_wbRead h⟩⟩

theorem decode_eq_spiExchange_iff :
    (∃ v, decode w = .instr (.spiExchange v)) ↔ fieldOp w = opSpiExchange :=
  ⟨fun ⟨_, h⟩ => fieldOp_of_decode h, fun h => ⟨_, decode_of_spiExchange h⟩⟩

/-- The reserved opcodes are exactly those for which no command is answered. -/
theorem reservedOp_fieldOp_iff : ReservedOp (fieldOp w) ↔ ¬ ∃ i, decode w = .instr i :=
  (reservedOp_iff_not_wellFormed (cmdOfWord w)).trans (wellFormed_iff_decodes _).not

theorem decode_of_reservedOp (h : ReservedOp (fieldOp w)) : decode w = .reserved (fieldOp w) := by
  cases hd : decode w with
  | instr i => exact absurd ⟨i, hd⟩ (reservedOp_fieldOp_iff.1 h)
  | reserved op => rw [fieldOp_of_decode hd]; rfl

theorem decode_eq_reserved_iff : decode w = .reserved op ↔ op = fieldOp w ∧ ReservedOp op := by
  constructor
  · intro h
    obtain rfl : fieldOp w = op := fieldOp_of_decode h
    exact ⟨rfl, reservedOp_fieldOp_iff.2 (by simp [h])⟩
  · rintro ⟨rfl, hr⟩
    exact decode_of_reservedOp hr

/-! ### The opcode under its mask (`30_encoding.md` R81, R82) -/

theorem wordOfCmd_injective : Function.Injective wordOfCmd :=
  Function.LeftInverse.injective cmdOfWord_wordOfCmd

/-- Masking a word made from fields masks field by field. -/
theorem wordOfCmd_and_wordOfCmd (c m : Cmd) :
    wordOfCmd c &&& wordOfCmd m = wordOfCmd ⟨c.op &&& m.op, c.addr &&& m.addr, c.data &&& m.data⟩ := by
  change (c.op ++ (c.addr ++ c.data)) &&& (m.op ++ (m.addr ++ m.data)) =
    (c.op &&& m.op) ++ ((c.addr &&& m.addr) ++ (c.data &&& m.data))
  rw [BitVec.and_append, BitVec.and_append]

/-- A word agrees with an opcode under the mask of the opcode bits exactly when its opcode field holds it. -/
theorem and_opMask_eq_iff (w : CmdWord) (k : OpCode) :
    w &&& wordOfCmd ⟨7#3, 0, 0⟩ = wordOfCmd ⟨k, 0, 0⟩ ↔ fieldOp w = k := by
  have hmask : w &&& wordOfCmd ⟨7#3, 0, 0⟩ = wordOfCmd ⟨fieldOp w, 0, 0⟩ := by
    have hall : fieldOp w &&& 7#3 = fieldOp w := BitVec.and_allOnes
    conv_lhs => rw [← wordOfCmd_cmdOfWord w, wordOfCmd_and_wordOfCmd]
    simp [cmdOfWord, hall]
  rw [hmask, wordOfCmd_injective.eq_iff]
  simp

end Decoder

/-- Settles O4: each command's row by the decoder's answer for its opcode, with the row's pattern read as
that opcode under the mask; the reserved row by the opcodes that are left. -/
theorem decoderAgreesWithOpcodeTable : Obligations.DecoderAgreesWithOpcodeTable := by
  refine ⟨fun w => ⟨?_, ?_, ?_, ?_, fun op => decode_eq_reserved_iff⟩, decode_of_reservedOp (.inl rfl)⟩
  · exact decode_eq_reset_iff.trans (and_opMask_eq_iff w opReset).symm
  · exact decode_eq_wbWrite_iff.trans (and_opMask_eq_iff w opWbWrite).symm
  · exact decode_eq_wbRead_iff.trans (and_opMask_eq_iff w opWbRead).symm
  · exact decode_eq_spiExchange_iff.trans (and_opMask_eq_iff w opSpiExchange).symm

end Sys2Proof

namespace Sys2Proof.Machine

open Sys2Proof

/-- At an accept edge a step is what accepting the decoded word does (`30_encoding.md` R84, R85). -/
theorem step_of_accepting_of_presented {s : State} {w : CmdWord} (ha : s.Accepting)
    (hw : s.presented = some w) : step s = onAccept (decode w) s.sample s := by
  rw [step_eq_edgeWith, edgeWith_accepting ha]
  simp only [onPorts, hw]

/-- Settles O10: a reserved opcode decodes to `Reserved` of itself, which an accept edge refuses by name. -/
theorem reservedOpcodeIsRefusedWhenAccepted : Obligations.ReservedOpcodeIsRefusedWhenAccepted := by
  intro s w ha hw hr
  rw [step_of_accepting_of_presented ha hw, decode_of_reservedOp hr]
  rfl

end Sys2Proof.Machine

namespace Sys2Proof.Machine

open Sys2Proof

section ResetEdges

variable {s : State}

/-! ### A command's accept edge and an edge of a fixed phase (`10_state.md` R28, `30_encoding.md` R84) -/

/-- At an accept edge a command does what accepting it does, whatever word is on the ports. -/
theorem exec_of_accepting (i : Instr) (ha : s.Accepting) : exec i s = onAccept (.instr i) s.sample s := by
  rw [exec_eq_edgeWith, edgeWith_accepting ha]

/-- The phase's comparison is the one of `20_memory.md` R79. -/
theorem State.atLimit_iff {limit : Limit} : s.atLimit limit = true ↔ s.regs.cnt.toNat + 1 = limit.val :=
  beq_iff_eq

/-- Every register after an edge of a fixed phase: its end's registers at the last edge, else one more count. -/
theorem State.fixedPhase_regs (limit : Limit) (finish : State → State) :
    (s.fixedPhase limit finish).regs = if s.regs.cnt.toNat + 1 = limit.val then (finish s.tick).regs
      else { s.regs.noRsp with cnt := s.regs.cnt + 1#32 } := by
  simp only [State.fixedPhase, State.atLimit_iff]
  split <;> rfl

theorem step_rstAssert (hp : s.sample.por = false) (hl : s.Live) (hc : s.regs.ctl = .rstAssert) :
    step s = .next (rstAssertStep s) := by
  rw [step_phase hp hl (by simp [hc]) (by simp [hc])]
  simp only [phaseResult, hc]

theorem step_rstRelease (hp : s.sample.por = false) (hl : s.Live) (hc : s.regs.ctl = .rstRelease) :
    step s = .next (rstReleaseStep s) := by
  rw [step_phase hp hl (by simp [hc]) (by simp [hc])]
  simp only [phaseResult, hc]

/-- Before the first RESET has completed a WB accept edge is refused, whatever the acknowledge is
(`40_clock_reset.md` R110, `60_exceptions.md` R181). -/
theorem acceptWb_of_resetDone_eq_false {op : OpCode} {addr operand : Word} {bus : BusOut} {x : Sample}
    (hr : s.regs.resetDone = false) : acceptWb op addr operand bus x s = .refused .transactionBeforeReset := by
  simp [acceptWb, hr]

end ResetEdges

/-- Settles O15: `exec` of RESET at an accept edge is `acceptReset`, whose writes are R104's. -/
theorem resetAcceptEdge : Obligations.ResetAcceptEdge :=
  fun s ha => ⟨acceptReset s, exec_of_accepting .reset ha, rfl⟩

/-- Settles O16: the step is the fixed phase of `RESET_ASSERT_CYCLES` edges whose end is R105's. -/
theorem rstAssertEdge : Obligations.RstAssertEdge :=
  fun _ hp hl hc => ⟨_, step_rstAssert hp hl hc, State.fixedPhase_regs _ _⟩

/-- Settles O17: the step is the fixed phase of `RESET_RELEASE_CYCLES` edges whose end is R106's. -/
theorem rstReleaseEdge : Obligations.RstReleaseEdge :=
  fun _ hp hl hc => ⟨_, step_rstRelease hp hl hc, State.fixedPhase_regs _ _⟩

/-- Settles O20: both commands are accepted by `acceptWb`, which refuses while `reset_done = 0`. -/
theorem transactionBeforeResetIsRefused : Obligations.TransactionBeforeResetIsRefused := by
  intro s addr data ha hr
  constructor
  · rw [exec_of_accepting _ ha]
    exact acceptWb_of_resetDone_eq_false hr
  · rw [exec_of_accepting _ ha]
    exact acceptWb_of_resetDone_eq_false hr

end Sys2Proof.Machine

namespace Sys2Proof.Machine

open Sys2Proof

section WishboneEdges

variable {s : State} {x : Sample}

/-! ### The accept edge and the two waits of a WB command (`41_wishbone.md` R124, R126, R131) -/

/-- At an accept edge that finds the acknowledge low the request is driven. -/
theorem acceptWb_of_request {op : OpCode} {addr operand : Word} {bus : BusOut}
    (hr : s.regs.resetDone = true) (hx : x.wbAck = false) : acceptWb op addr operand bus x s =
      .next (((s.tick.advanceCi.launch s.edge operand).request op addr bus).enter .requestAsserted) := by
  simp [acceptWb, hr, hx]

/-- A command accepted by `acceptWb` with the acknowledge low: every register after the edge. -/
theorem exec_request {i : Instr} {op : OpCode} {addr operand : Word} {bus : BusOut} (ha : s.Accepting)
    (hr : s.regs.resetDone = true) (hx : s.sample.wbAck = false)
    (hi : onAccept (.instr i) s.sample s = acceptWb op addr operand bus s.sample s) :
    ∃ t, exec i s = .next t ∧ t.regs = { s.regs.noRsp with
      bus := bus, txnOp := op, txnAddr := addr, cnt := 0#32, ctl := .requestAsserted } :=
  ⟨_, by rw [exec_of_accepting i ha, hi, acceptWb_of_request hr hx], rfl⟩

theorem step_ackRise (hp : s.sample.por = false) (hl : s.Live)
    (hc : s.regs.ctl = .requestAsserted ∨ s.regs.ctl = .awaitAckRise) :
    step s = .next (ackRiseStep s.sample s) := by
  obtain hc | hc := hc <;>
  · rw [step_phase hp hl (by simp [hc]) (by simp [hc])]
    simp only [phaseResult, hc]

theorem step_ackFall (hp : s.sample.por = false) (hl : s.Live) (hc : s.regs.ctl = .awaitAckFall) :
    step s = .next (ackFallStep s.sample s) := by
  rw [step_phase hp hl (by simp [hc]) (by simp [hc])]
  simp only [phaseResult, hc]

/-- Every register after an edge of the rise wait, in the order of R126. -/
theorem ackRiseStep_regs : (ackRiseStep x s).regs =
    if x.wbAck = true then
      { s.regs.noRsp with
        rdata := if s.regs.txnOp = opWbRead then x.wbDatOut else s.regs.rdata
        bus := s.regs.bus.idled, cnt := 0#32, ctl := .awaitAckFall }
    else if s.regs.cnt.toNat + 1 = s.params.ackTimeout.val then
      { s.regs.noRsp with
        err := { code := .ackTimeout, op := s.regs.txnOp, addr := s.regs.txnAddr, elapsed := s.phaseCount }
        ctl := .halted }
    else { s.regs.noRsp with cnt := s.phaseCount, ctl := .awaitAckRise } := by
  simp only [ackRiseStep, State.atLimit_iff]
  split
  · rw [State.enter_regs, State.noteRise_regs, State.idleBus_regs, State.capture_regs]
    rfl
  · split <;> rfl

/-- Every register after a WB command completes: IDLE, with the response of its opcode. -/
theorem wbComplete_regs {r : Regs} {j : Nat} : (wbComplete r j s).regs =
    { s.regs with
      cnt := 0#32, ctl := .idle
      rsp := if r.txnOp = opWbRead then { valid := true, op := opWbRead, data := r.rdata }
        else { valid := true, op := opWbWrite, data := 0#32 } } := by
  unfold wbComplete
  split_ifs <;> rfl

/-- Every register after an edge of the fall wait, in the order of R131. -/
theorem ackFallStep_regs : (ackFallStep x s).regs =
    if x.wbAck = false then (wbComplete s.regs (s.regs.cnt.toNat + 1) s.tick).regs
    else if s.regs.cnt.toNat + 1 = s.params.ackTimeout.val then
      { s.regs.noRsp with
        err := { code := .ackNotReleased, op := s.regs.txnOp, addr := s.regs.txnAddr, elapsed := s.phaseCount }
        ctl := .halted }
    else { s.regs.noRsp with cnt := s.phaseCount, ctl := .awaitAckFall } := by
  simp only [ackFallStep, State.atLimit_iff, Bool.not_eq_true']
  split_ifs <;> rfl

end WishboneEdges

/-- Settles O21: both commands are accepted by `acceptWb`, each with its own drive of the bus outputs. -/
theorem wbRequestDrive : Obligations.WbRequestDrive :=
  fun _ _ _ ha hr hx => ⟨exec_request ha hr hx rfl, exec_request ha hr hx rfl⟩

/-- Settles O23: from either state the step is the rise wait's, whose registers are R126's. -/
theorem ackRiseWaitEdge : Obligations.AckRiseWaitEdge :=
  fun _ hp hl hc => ⟨_, step_ackRise hp hl hc, ackRiseStep_regs⟩

/-- Settles O24: the step is the fall wait's; its completing edge writes the whole response, and an edge that
waits on stays in AWAIT_ACK_FALL. -/
theorem ackFallWaitEdge : Obligations.AckFallWaitEdge := by
  intro s hp hl hc
  refine ⟨_, step_ackFall hp hl hc, ?_⟩
  rw [ackFallStep_regs, wbComplete_regs, ← hc]
  rfl

end Sys2Proof.Machine

namespace Sys2Proof.Machine

open Sys2Proof

section SerialEdges

variable {s : State} {c : Ctl}

/-! ### The phases of SPI_EXCHANGE (`42_serial.md` R153 to R156) -/

/-- A phase's step is the one its control state names. -/
theorem step_of_phase {t : State} (hp : s.sample.por = false) (hl : s.Live) (hc : s.regs.ctl = c)
    (hi : c ≠ .idle) (hr : ∀ k, c ≠ .reserved k) (ht : phaseResult s = t) : step s = .next t := by
  subst hc ht
  exact step_phase hp hl hi hr

theorem step_spiCsSetup (hp : s.sample.por = false) (hl : s.Live) (hc : s.regs.ctl = .spiCsSetup) :
    step s = .next (spiCsSetupStep s) :=
  step_of_phase hp hl hc (by simp) (by simp) (by simp only [phaseResult, hc])

theorem step_spiBitHigh (hp : s.sample.por = false) (hl : s.Live) (hc : s.regs.ctl = .spiBitHigh) :
    step s = .next (spiBitHighStep s.sample s) :=
  step_of_phase hp hl hc (by simp) (by simp) (by simp only [phaseResult, hc])

theorem step_spiBitLow (hp : s.sample.por = false) (hl : s.Live) (hc : s.regs.ctl = .spiBitLow) :
    step s = .next (spiBitLowStep s) :=
  step_of_phase hp hl hc (by simp) (by simp) (by simp only [phaseResult, hc])

theorem step_spiTail (hp : s.sample.por = false) (hl : s.Live) (hc : s.regs.ctl = .spiTail) :
    step s = .next (spiTailStep s) :=
  step_of_phase hp hl hc (by simp) (by simp) (by simp only [phaseResult, hc])

/-- A sampled bit as the 16-bit word that `shiftIn` joins (`20_memory.md` R79). -/
theorem zext16_eq_ite (b : Bool) : zext16 b = if b = true then 1#16 else 0#16 := by
  cases b <;> rfl

/-- Every register after an edge of SPI_BIT_HIGH, the sampled bit shifted in at its last one. -/
theorem spiBitHighStep_regs {x : Sample} : (spiBitHighStep x s).regs =
    if s.regs.cnt.toNat + 1 = s.params.settle.val then
      { s.regs.noRsp with
        rxacc := (s.regs.rxacc <<< 1) ||| (if x.spiMiso = true then 1#16 else 0#16)
        link := { s.regs.link with sclk := false }, shreg := s.regs.shreg <<< 1
        bitcnt := s.regs.bitcnt - 1#5, cnt := 0#32, ctl := .spiBitLow }
    else { s.regs.noRsp with cnt := s.regs.cnt + 1#32 } := by
  rw [spiBitHighStep, State.fixedPhase_regs, State.enter_regs, State.sampleBit_regs, shiftIn, zext16_eq_ite]
  rfl

/-- Every register after an edge of SPI_BIT_LOW: at its last one the next bit is driven while bits are left,
else the tail begins. -/
theorem spiBitLowStep_regs : (spiBitLowStep s).regs =
    if s.regs.cnt.toNat + 1 = s.params.settle.val then
      if 0 < s.regs.bitcnt.toNat then (s.tick.driveBit.enter .spiBitHigh).regs
      else (s.tick.enter .spiTail).regs
    else { s.regs.noRsp with cnt := s.regs.cnt + 1#32 } := by
  rw [spiBitLowStep, State.fixedPhase_regs, apply_ite State.regs]

end SerialEdges

/-- Settles O30: `exec` of SPI_EXCHANGE at an accept edge is `acceptSpi`, whose writes are R152's. -/
theorem spiAcceptEdge : Obligations.SpiAcceptEdge :=
  fun s value ha => ⟨acceptSpi value s, exec_of_accepting (.spiExchange value) ha, rfl⟩

/-- Settles O31: the step is the fixed phase of `SETTLE_CYCLES` edges whose end drives the first bit. -/
theorem spiCsSetupEdge : Obligations.SpiCsSetupEdge :=
  fun _ hp hl hc => ⟨_, step_spiCsSetup hp hl hc, State.fixedPhase_regs _ _⟩

/-- Settles O32: the step is the fixed phase whose end samples the peer's bit. -/
theorem spiBitHighEdge : Obligations.SpiBitHighEdge :=
  fun _ hp hl hc => ⟨_, step_spiBitHigh hp hl hc, spiBitHighStep_regs⟩

/-- Settles O33: the step is the fixed phase whose end asks whether bits are left. -/
theorem spiBitLowEdge : Obligations.SpiBitLowEdge :=
  fun _ hp hl hc => ⟨_, step_spiBitLow hp hl hc, spiBitLowStep_regs⟩

/-- Settles O34: the step is the fixed phase whose end deselects the peer and responds with the accumulator. -/
theorem spiTailEdge : Obligations.SpiTailEdge :=
  fun _ hp hl hc => ⟨_, step_spiTail hp hl hc, State.fixedPhase_regs _ _⟩

end Sys2Proof.Machine

namespace Sys2Proof.Machine

open Sys2Proof

section HaltedEdges

variable {s : State}

/-! ### HALTED over any number of edges (`60_exceptions.md` R177) -/

/-- A live HALTED block always steps while `por` is low, and the edge only passes. -/
theorem step_halted (hp : s.sample.por = false) (hl : s.Live) (hc : s.regs.ctl = .halted) :
    step s = .next s.tick :=
  step_of_phase hp hl hc (by simp) (by simp) (by simp only [phaseResult, hc, haltedStep])

/-- Any number of edges without `por`, at least one, leave a HALTED block as one such edge does. -/
theorem runEdges_halted (n : Nat) : ∀ {s : State}, s.PorLow (n + 1) → s.Live → s.regs.ctl = .halted →
    ∃ t, runEdges (n + 1) s = .next t ∧ t.regs = s.regs.noRsp ∧ t.ci = s.ci := by
  induction n with
  | zero =>
    intro s hp hl hc
    exact ⟨s.tick, runEdges_succ (step_halted (hp 0 Nat.one_pos) hl hc), rfl, rfl⟩
  | succ n ih =>
    intro s hp hl hc
    have hs : step s = .next s.tick := step_halted (hp 0 (Nat.succ_pos _)) hl hc
    obtain ⟨t, hrun, hregs, hci⟩ := ih ((passed_step hs).porLow hp) hl hc
    exact ⟨t, (runEdges_succ hs).trans hrun, hregs, hci⟩

end HaltedEdges

/-- Settles O38: the flags are read off `ctl`, `runEdges_halted` gives every edge without `por`, and a POR edge
gives every register its POR value. -/
theorem haltedIsSticky : Obligations.HaltedIsSticky :=
  fun s hc hl =>
    ⟨by simp [Regs.cmdReady, hc], by simp [Regs.halted, hc], fun n hp => runEdges_halted n hp hl hc,
      fun hp => ⟨s.tick.powerOn, step_por hp, rfl, rfl⟩⟩

end Sys2Proof.Machine

namespace Sys2Proof

section Encoding

variable {w w' : CmdWord} {i : Instr}

/-! ### Encoding and decoding on the bits a command uses (`30_encoding.md` R81 to R87) -/

/-- A value zero-extended to the data field is read back from it. -/
@[simp] theorem fieldValue_setWidth (v : Half) : fieldValue (v.setWidth 32) = v := by
  apply BitVec.eq_of_toNat_eq
  simp only [fieldValue, BitVec.extractLsb'_toNat, BitVec.toNat_setWidth, Nat.shiftRight_zero]
  omega

/-- Masking a data field to its low half keeps exactly the serial value it carries. -/
theorem and_lowHalf (d : Word) : d &&& 0x0000FFFF#32 = (fieldValue d).setWidth 32 := by
  apply BitVec.eq_of_toNat_eq
  have hmod : d.toNat &&& 65535 = d.toNat % 65536 := Nat.and_two_pow_sub_one_eq_mod d.toNat 16
  simp only [BitVec.toNat_and, BitVec.toNat_ofNat, Nat.reducePow, Nat.reduceMod, hmod, fieldValue,
    BitVec.toNat_setWidth, BitVec.extractLsb'_toNat, Nat.shiftRight_zero]
  omega

/-- The fields of the mask of a command's used bits (R83). -/
def usedFields : Instr → Cmd
  | .reset         => ⟨7#3, 0, 0⟩
  | .wbWrite _ _   => ⟨7#3, 0xFFFFFFFF#32, 0xFFFFFFFF#32⟩
  | .wbRead _      => ⟨7#3, 0xFFFFFFFF#32, 0⟩
  | .spiExchange _ => ⟨7#3, 0, 0x0000FFFF#32⟩

theorem usedBits_eq_wordOfCmd (i : Instr) : usedBits i = wordOfCmd (usedFields i) := by
  cases i <;> rfl

/-- The fields decode to a command exactly when, masked to the fields it uses, they are its encoding's. -/
theorem decodeCmd_eq_instr_iff (c : Cmd) (i : Instr) : decodeCmd c = .instr i ↔
    (⟨c.op &&& (usedFields i).op, c.addr &&& (usedFields i).addr, c.data &&& (usedFields i).data⟩ : Cmd) =
      encodeCmd i := by
  obtain ⟨op, addr, data⟩ := c
  have hop : op &&& 7#3 = op := BitVec.and_allOnes
  have haddr : addr &&& 0xFFFFFFFF#32 = addr := BitVec.and_allOnes
  have hdata : data &&& 0xFFFFFFFF#32 = data := BitVec.and_allOnes
  have hzext : ∀ v v' : Half, v.setWidth 32 = v'.setWidth 32 ↔ v = v' := fun v v' =>
    ⟨fun h => by rw [← fieldValue_setWidth v, h, fieldValue_setWidth], fun h => by rw [h]⟩
  unfold decodeCmd
  cases i with
  | reset => split_ifs <;> simp_all [usedFields, encodeCmd]
  | wbWrite a d => split_ifs <;> simp_all [usedFields, encodeCmd, opReset, opWbWrite]
  | wbRead a => split_ifs <;> simp_all [usedFields, encodeCmd, opReset, opWbWrite, opWbRead]
  | spiExchange v =>
    split_ifs <;> simp_all [usedFields, encodeCmd, opReset, opWbWrite, opWbRead, opSpiExchange, and_lowHalf]

/-- A word decodes to a command exactly when it is the command's encoding on every bit the command uses. -/
theorem decode_eq_instr_iff : decode w = .instr i ↔ w &&& usedBits i = encode i := by
  rw [← wordOfCmd_cmdOfWord w, decode_wordOfCmd, decodeCmd_eq_instr_iff, usedBits_eq_wordOfCmd,
    wordOfCmd_and_wordOfCmd, encode, wordOfCmd_injective.eq_iff]

/-- Flipping bits outside a mask is not seen under the mask. -/
theorem xor_and_not_and {n : Nat} (w v u : BitVec n) : (w ^^^ (v &&& ~~~u)) &&& u = w &&& u := by
  ext j hj
  cases hu : u[j] <;> simp [hu]

end Encoding

/-- Settles O1: the fields of the encoding are read back, and each command's fields decode to it. -/
theorem decodeOfEncodeIsTheCommand : Obligations.DecodeOfEncodeIsTheCommand := by
  intro i
  rw [encode, decode_wordOfCmd]
  cases i with
  | reset | wbWrite _ _ | wbRead _ => rfl
  | spiExchange v => exact congrArg (Decoded.instr ∘ Instr.spiExchange) (fieldValue_setWidth v)

/-- Settles O2: the forward half of `decode_eq_instr_iff`. -/
theorem encodeOfDecodeKeepsUsedBits : Obligations.EncodeOfDecodeKeepsUsedBits :=
  fun _ _ h => decode_eq_instr_iff.1 h

/-- Settles O3: the decoder looks at the used bits only, and these are not flipped. -/
theorem ignoredFieldsDoNotChangeTheCommand : Obligations.IgnoredFieldsDoNotChangeTheCommand := by
  intro w v i h
  rw [decode_eq_instr_iff, xor_and_not_and]
  exact decode_eq_instr_iff.1 h

/-- Settles O5: the worked words are evaluated, and WB_WRITE's word is its three fields side by side. -/
theorem workedWordsDecodeAndEncode : Obligations.WorkedWordsDecodeAndEncode := by
  unfold Obligations.WorkedWordsDecodeAndEncode
  refine ⟨?_, ?_, ?_, ?_, ?_, ?_, ?_, ?_, ?_, ?_, fun _ _ => rfl⟩ <;> decide

end Sys2Proof

namespace Sys2Proof.Machine

open Sys2Proof

section Invariant

variable {s t : State}

/-! ### The invariant, control state by control state -/

/-- The serial link between exchanges (`10_state.md` R25, R29). -/
abbrev Regs.LinkRest (r : Regs) : Prop := r.link.csN = true ∧ r.link.sclk = false ∧ r.bitcnt = 0#5

/-- No error has been taken and no response stands (`10_state.md` R34, R37). -/
abbrev Regs.Clear (r : Regs) : Prop := r.err = ErrCtx.por ∧ r.rsp.valid = false

/-- The latches of a WB command in progress (`41_wishbone.md` R123, R124). -/
abbrev Regs.Latched (r : Regs) : Prop :=
  (r.txnOp = 2#3 ∨ r.txnOp = 3#3) ∧ r.resetDone = true ∧ r.bus.we = (r.txnOp == 2#3)

/-- The command in progress is `f`, its accept edge `n` edges back. -/
abbrev State.Since (s : State) (f : Flight) (n : Nat) : Prop :=
  s.flight = some f ∧ s.edge = f.acceptEdge + n

/-- What both states of the rise wait have in common (`41_wishbone.md` R124 to R128). -/
def State.RiseWait (s : State) : Prop :=
  s.regs.Requesting ∧ s.regs.Latched ∧ s.regs.LinkRest ∧ s.regs.dutRst = false ∧ s.regs.Clear ∧
  ∃ f, s.Since f (s.regs.cnt.toNat + 1) ∧ f.riseLen = 0 ∧ (s.regs.bus.we = true → s.regs.bus.datIn = f.operand)

/-- What both phases of RESET have in common (`40_clock_reset.md` R104 to R106): the levels, the phase's length
and the edges before it. -/
def State.Resetting (s : State) (limit : Limit) (before : Nat) : Prop :=
  s.regs.bus.Idle ∧ s.regs.LinkRest ∧ s.regs.cnt.toNat < limit.val ∧ s.regs.Clear ∧
  ∃ f, s.Since f (before + s.regs.cnt.toNat + 1)

/-- What every phase of an exchange has in common (`42_serial.md` R152 to R157): the levels, the edges before the
phase, and a property of the command in progress. -/
def State.Exchanging (s : State) (before : Nat) (P : Flight → Prop) : Prop :=
  s.regs.bus.Idle ∧ s.regs.link.csN = false ∧ s.regs.cnt.toNat < s.params.settle.val ∧ s.regs.dutRst = false ∧
  s.regs.Clear ∧ ∃ f, s.Since f (before + s.regs.cnt.toNat + 1) ∧ P f

/-- What the invariant says of a block whose control state is `c`. -/
def State.InvAt (s : State) : Ctl → Prop
  | .idle => s.regs.bus.Idle ∧ s.regs.LinkRest ∧ s.regs.err = ErrCtx.por ∧ s.regs.cnt = 0#32 ∧
    s.regs.dutRst = false ∧ s.flight = none
  | .requestAsserted => s.RiseWait ∧ s.regs.cnt = 0#32
  | .awaitAckRise => s.RiseWait ∧ 1 ≤ s.regs.cnt.toNat ∧ s.regs.cnt.toNat < s.params.ackTimeout.val
  | .awaitAckFall => s.regs.bus.Idle ∧ s.regs.Latched ∧ s.regs.LinkRest ∧
    s.regs.cnt.toNat < s.params.ackTimeout.val ∧ s.regs.dutRst = false ∧ s.regs.Clear ∧
    ∃ f, s.Since f (f.riseLen + s.regs.cnt.toNat + 1) ∧ 1 ≤ f.riseLen ∧ f.riseLen ≤ s.params.ackTimeout.val
  | .rstAssert => s.Resetting s.params.resetAssert 0 ∧ s.regs.dutRst = true
  | .rstRelease => s.Resetting s.params.resetRelease s.params.resetAssert.val ∧ s.regs.dutRst = false
  | .spiCsSetup => s.regs.link.sclk = false ∧ s.regs.bitcnt = 16#5 ∧
    s.Exchanging 0 fun f => s.regs.shreg = fieldValue f.operand ∧ s.regs.rxacc = 0#16
  | .spiBitHigh => s.regs.link.sclk = true ∧ (1 ≤ s.regs.bitcnt.toNat ∧ s.regs.bitcnt.toNat ≤ 16) ∧
    s.Exchanging (s.params.settle.val * (1 + 2 * (16 - s.regs.bitcnt.toNat))) fun f =>
      s.regs.shreg = fieldValue f.operand <<< (16 - s.regs.bitcnt.toNat) ∧
      s.regs.link.mosi = (fieldValue f.operand).getLsbD (s.regs.bitcnt.toNat - 1) ∧
      s.regs.rxacc.toNat < 2 ^ (16 - s.regs.bitcnt.toNat)
  | .spiBitLow => s.regs.link.sclk = false ∧ s.regs.bitcnt.toNat ≤ 15 ∧
    s.Exchanging (s.params.settle.val * (2 * (16 - s.regs.bitcnt.toNat))) fun f =>
      s.regs.shreg = fieldValue f.operand <<< (16 - s.regs.bitcnt.toNat) ∧
      s.regs.link.mosi = (fieldValue f.operand).getLsbD s.regs.bitcnt.toNat ∧
      s.regs.rxacc.toNat < 2 ^ (16 - s.regs.bitcnt.toNat)
  | .spiTail => s.regs.link.sclk = false ∧ s.regs.bitcnt = 0#5 ∧
    s.Exchanging (s.params.settle.val * 33) fun f =>
      s.regs.shreg = 0#16 ∧ s.regs.link.mosi = (fieldValue f.operand).getLsbD 0
  | .halted => s.regs.BusInv ∧ s.regs.LinkRest ∧ s.regs.ErrInv s.params ∧
    s.regs.cnt.toNat < s.params.ackTimeout.val ∧ s.regs.dutRst = false ∧ s.regs.rsp.valid = false ∧
    s.flight = none
  | .reserved _ => False

/-- The invariant as one conjunction. -/
theorem State.inv_iff : s.Inv ↔
    (∀ k : Fin 5, s.regs.ctl ≠ .reserved k) ∧ s.regs.BusInv ∧ s.regs.TxnInv ∧ s.regs.LinkInv ∧ s.regs.BitInv ∧
    s.regs.ErrInv s.params ∧ s.regs.CountInv s.params ∧ s.regs.dutRst = (s.regs.ctl == .rstAssert) ∧
    (s.regs.rsp.valid = true → s.regs.ctl = .idle) ∧ s.TimeInv ∧ s.FlightInv ∧ s.SerialInv :=
  ⟨fun ⟨a, b, c, d, e, f, g, h, i, j, k, l⟩ => ⟨a, b, c, d, e, f, g, h, i, j, k, l⟩,
    fun ⟨a, b, c, d, e, f, g, h, i, j, k, l⟩ => ⟨a, b, c, d, e, f, g, h, i, j, k, l⟩⟩

/-- The invariant, read off the control state. -/
theorem State.inv_iff_of {c : Ctl} (hc : s.regs.ctl = c) : s.Inv ↔ s.InvAt c := by
  rw [State.inv_iff]
  cases c with
  | halted =>
    cases hf : s.flight <;> simp [Regs.TxnInv, Regs.LinkInv, Regs.BitInv, Regs.CountInv, State.TimeInv,
      State.FlightInv, State.SerialInv, Regs.busy, State.InvAt, hc, hf, beq_eq_decide]
    tauto
  | idle | requestAsserted | awaitAckRise | awaitAckFall | rstAssert | rstRelease | spiCsSetup | spiBitHigh
  | spiBitLow | spiTail | reserved _ =>
    simp only [Regs.BusInv, Regs.TxnInv, Regs.LinkInv, Regs.BitInv, Regs.ErrInv, Regs.CountInv, hc]
    cases hf : s.flight <;> simp [State.TimeInv, State.FlightInv, State.SerialInv, Regs.busy, Regs.sinceAccept,
      State.InvAt, State.RiseWait, State.Resetting, State.Exchanging, State.Since, Regs.Clear, Regs.LinkRest,
      Regs.Latched, hc, hf, beq_eq_decide] <;> tauto

end Invariant

end Sys2Proof.Machine

namespace Sys2Proof.Machine

open Sys2Proof

section InvariantSteps

variable {s t : State} {limit : Limit} {finish : State → State} {f : Flight}

/-! ### What keeps the invariant whatever the phase -/

/-- Below a phase's limit the count does not wrap (`20_memory.md` R79). -/
theorem State.phaseCount_toNat (h : s.regs.cnt.toNat < limit.val) :
    s.phaseCount.toNat = s.regs.cnt.toNat + 1 := by
  have := limit.property.2
  simp only [State.phaseCount, BitVec.toNat_add, BitVec.toNat_ofNat]
  omega

/-- The POR values with no command in progress meet the invariant (`10_state.md` R45). -/
theorem State.inv_of_por (hr : s.regs = Regs.por) (hf : s.flight = none) : s.Inv := by
  rw [State.inv_iff_of (c := .idle) (by rw [hr]; rfl)]
  exact ⟨by rw [hr]; decide, by rw [hr]; decide, by rw [hr]; rfl, by rw [hr]; rfl, by rw [hr]; rfl, hf⟩

theorem State.timeInv_of_some (hf : s.flight = some f) : s.TimeInv ↔
    s.regs.busy = true ∧ s.edge = f.acceptEdge + s.regs.sinceAccept s.params f := by
  simp only [State.TimeInv, hf]

theorem State.timeInv_of_none (hf : s.flight = none) : s.TimeInv ↔ s.regs.busy = false := by
  simp only [State.TimeInv, hf]

/-- A command is in progress exactly while the block is busy. -/
theorem State.Inv.isSome_flight (h : s.Inv) : s.flight.isSome = s.regs.busy := by
  cases hf : s.flight with
  | none => exact ((State.timeInv_of_none hf).1 h.time).symm
  | some f => exact ((State.timeInv_of_some hf).1 h.time).1.symm

/-- An edge that only passes keeps the invariant of a block that is not busy. -/
theorem State.Inv.tick (h : s.Inv) (hb : s.regs.busy = false) : s.tick.Inv where
  legalCtl := h.legalCtl
  bus := h.bus
  txn := h.txn
  link := h.link
  bits := h.bits
  err := h.err
  count := h.count
  dutRst := h.dutRst
  rsp := by simp
  time := by
    have hf : s.flight = none := by simpa [hb] using h.isSome_flight
    exact (State.timeInv_of_none (s := s.tick) hf).2 hb
  flight := h.flight
  serial := h.serial

/-- In a phase, one edge more is one edge more since the accept edge. -/
theorem Regs.sinceAccept_succ {r : Regs} {p : Params} {k : Word} (hb : r.busy = true)
    (hr : ∀ k, r.ctl ≠ .reserved k) (hk : k.toNat = r.cnt.toNat + 1) : ({ r with cnt := k }).sinceAccept p f = r.sinceAccept p f + 1 := by
  cases hc : r.ctl with
  | idle | halted => simp [Regs.busy, hc] at hb
  | reserved k => exact absurd hc (hr k)
  | requestAsserted | awaitAckRise | awaitAckFall | rstAssert | rstRelease | spiCsSetup | spiBitHigh | spiBitLow
  | spiTail => simp only [Regs.sinceAccept, hc, hk, Nat.add_assoc]

/-- One more edge of a phase keeps the invariant while the count stays legal: nothing but `cnt` moves. -/
theorem State.Inv.stay (h : s.Inv) (hb : s.regs.busy = true) (hk : s.phaseCount.toNat = s.regs.cnt.toNat + 1)
    (hcount : ({ s.regs with cnt := s.phaseCount }).CountInv s.params) :
    (s.tick.stay s.regs.ctl s.phaseCount).Inv where
  legalCtl := h.legalCtl
  bus := h.bus
  txn := h.txn
  link := h.link
  bits := h.bits
  err := h.err
  count := hcount
  dutRst := h.dutRst
  rsp := by simp
  time := by
    obtain ⟨f, hf⟩ := Option.isSome_iff_exists.1 (h.isSome_flight.trans hb)
    obtain ⟨-, hedge⟩ := (State.timeInv_of_some hf).1 h.time
    refine (State.timeInv_of_some (s := s.tick.stay s.regs.ctl s.phaseCount) hf).2 ⟨hb, ?_⟩
    have hsince := Regs.sinceAccept_succ (p := s.params) (f := f) hb h.legalCtl hk
    calc s.edge + 1 = f.acceptEdge + (s.regs.sinceAccept s.params f + 1) := by rw [hedge]; rfl
      _ = _ := by rw [← hsince]; rfl
  flight := h.flight
  serial := h.serial

/-- A fixed phase keeps the invariant if its end does. -/
theorem State.Inv.fixedPhase (h : s.Inv) (hb : s.regs.busy = true)
    (hcount : ∀ k : Word, ({ s.regs with cnt := k }).CountInv s.params ↔ k.toNat < limit.val)
    (hend : s.regs.cnt.toNat + 1 = limit.val → (finish s.tick).Inv) : (s.fixedPhase limit finish).Inv := by
  have hlt : s.regs.cnt.toNat < limit.val := (hcount s.regs.cnt).1 h.count
  have hk := State.phaseCount_toNat hlt
  unfold State.fixedPhase
  split
  next hlim => exact hend (State.atLimit_iff.1 hlim)
  next hlim =>
    rw [State.atLimit_iff] at hlim
    exact h.stay hb hk ((hcount _).2 (by omega))

end InvariantSteps

section InvariantPhases

variable {s : State} {x : Sample} {f : Flight}

/-! ### The end of each phase (`40_clock_reset.md`, `41_wishbone.md`, `42_serial.md`) -/

theorem State.Inv.rstAssertStep (h : s.Inv) (hc : s.regs.ctl = .rstAssert) : (rstAssertStep s).Inv := by
  obtain ⟨⟨hbus, hlink, -, ⟨herr, -⟩, f, hf, hedge⟩, -⟩ := (State.inv_iff_of hc).1 h
  refine h.fixedPhase (by simp [Regs.busy, hc]) (fun k => by simp [Regs.CountInv, hc]) fun hend => ?_
  refine (State.inv_iff_of (c := .rstRelease) rfl).2
    ⟨⟨hbus, hlink, s.params.resetRelease.property.1, ⟨herr, rfl⟩, f, hf, ?_⟩, rfl⟩
  simp
  omega

theorem State.Inv.rstReleaseStep (h : s.Inv) (hc : s.regs.ctl = .rstRelease) : (rstReleaseStep s).Inv := by
  obtain ⟨⟨hbus, hlink, -, ⟨herr, -⟩, -⟩, hdut⟩ := (State.inv_iff_of hc).1 h
  refine h.fixedPhase (by simp [Regs.busy, hc]) (fun k => by simp [Regs.CountInv, hc]) fun hend => ?_
  exact (State.inv_iff_of (c := .idle) rfl).2 ⟨hbus, hlink, herr, rfl, hdut, rfl⟩

/-- The first edge of a phase of an exchange, entered at the last edge of the phase before. -/
theorem State.Exchanging.enter {before before' : Nat} {P P' : Flight → Prop} {t : State} {c : Ctl}
    (h : s.Exchanging before P) (hend : s.regs.cnt.toNat + 1 = s.params.settle.val)
    (hbefore : before' = before + s.params.settle.val)
    (hkeep : t.regs.bus = s.regs.bus ∧ t.regs.link.csN = s.regs.link.csN ∧ t.regs.dutRst = s.regs.dutRst ∧
      t.regs.err = s.regs.err ∧ t.regs.rsp.valid = false)
    (hrun : t.params = s.params ∧ t.flight = s.flight ∧ t.edge = s.edge + 1)
    (hP : ∀ f, P f → P' f) : (t.enter c).Exchanging before' P' := by
  obtain ⟨hbus, hcs, -, hdut, ⟨herr, -⟩, f, ⟨hf, hedge⟩, hp⟩ := h
  obtain ⟨kbus, kcs, kdut, kerr, kvalid⟩ := hkeep
  obtain ⟨kparams, kflight, kedge⟩ := hrun
  refine ⟨by simpa [kbus] using hbus, by simpa [kcs] using hcs, ?_, by simpa [kdut] using hdut,
    ⟨by simpa [kerr] using herr, by simpa using kvalid⟩, f, ⟨by simpa [kflight] using hf, ?_⟩, hP f hp⟩
  · exact t.params.settle.property.1
  · simp [kedge, hedge]
    omega

theorem State.Inv.spiCsSetupStep (h : s.Inv) (hc : s.regs.ctl = .spiCsSetup) : (spiCsSetupStep s).Inv := by
  obtain ⟨-, hbits, hx⟩ := (State.inv_iff_of hc).1 h
  refine h.fixedPhase (by simp [Regs.busy, hc]) (fun k => by simp [Regs.CountInv, hc]) fun hend => ?_
  refine (State.inv_iff_of (c := .spiBitHigh) rfl).2 ⟨rfl, by simp [hbits],
    hx.enter hend (by simp [hbits]) ⟨rfl, rfl, rfl, rfl, rfl⟩ ⟨rfl, rfl, rfl⟩ ?_⟩
  rintro f ⟨hshreg, hrx⟩
  simp [hbits, hshreg, hrx, topBit]

/-- One more received bit doubles the bound on the accumulator. -/
theorem shiftIn_toNat_lt {acc : Half} {b : Bool} {k : Nat} (h : acc.toNat < 2 ^ k) :
    (shiftIn acc b).toNat < 2 ^ (k + 1) := by
  have hshift : (acc <<< 1).toNat < 2 ^ (k + 1) := by
    simp only [BitVec.toNat_shiftLeft, Nat.shiftLeft_eq]
    exact Nat.lt_of_le_of_lt (Nat.mod_le _ _) (by rw [Nat.pow_succ]; omega)
  have hbit : (zext16 b).toNat < 2 ^ (k + 1) := by
    have := Nat.one_le_two_pow (n := k)
    have hb : (zext16 b).toNat ≤ 1 := by cases b <;> decide
    omega
  rw [shiftIn, BitVec.toNat_or]
  exact Nat.or_lt_two_pow hshift hbit

theorem State.Inv.spiBitHighStep (h : s.Inv) (hc : s.regs.ctl = .spiBitHigh) : (spiBitHighStep x s).Inv := by
  obtain ⟨-, ⟨hlo, hhi⟩, hx⟩ := (State.inv_iff_of hc).1 h
  refine h.fixedPhase (by simp [Regs.busy, hc]) (fun k => by simp [Regs.CountInv, hc]) fun hend => ?_
  have hbits : ((s.tick.sampleBit x.spiMiso).enter .spiBitLow).regs.bitcnt.toNat = s.regs.bitcnt.toNat - 1 := by
    simp only [State.enter_regs, State.sampleBit_regs, State.tick_regs, BitVec.toNat_sub, BitVec.toNat_ofNat]
    omega
  have hdone : 16 - (s.regs.bitcnt.toNat - 1) = 16 - s.regs.bitcnt.toNat + 1 := by omega
  refine (State.inv_iff_of (c := .spiBitLow) rfl).2 ⟨rfl, by omega,
    hx.enter hend ?_ ⟨rfl, rfl, rfl, rfl, rfl⟩ ⟨rfl, rfl, rfl⟩ ?_⟩
  · rw [hbits, hdone]
    simp only [State.enter_params, State.sampleBit_params, State.tick_params]
    ring
  · rintro f ⟨hshreg, hmosi, hrx⟩
    rw [hbits, hdone]
    exact ⟨by simp [hshreg, BitVec.shiftLeft_add], hmosi, shiftIn_toNat_lt hrx⟩

theorem State.Inv.spiBitLowStep (h : s.Inv) (hc : s.regs.ctl = .spiBitLow) : (spiBitLowStep s).Inv := by
  obtain ⟨hclk, hhi, hx⟩ := (State.inv_iff_of hc).1 h
  refine h.fixedPhase (by simp [Regs.busy, hc]) (fun k => by simp [Regs.CountInv, hc]) fun hend => ?_
  split
  next hbits =>
    refine (State.inv_iff_of (c := .spiBitHigh) rfl).2 ⟨rfl, ⟨hbits, Nat.le_succ_of_le hhi⟩,
      hx.enter hend ?_ ⟨rfl, rfl, rfl, rfl, rfl⟩ ⟨rfl, rfl, rfl⟩ ?_⟩
    · simp only [State.enter_params, State.driveBit_params, State.tick_params, State.enter_regs,
        State.driveBit_regs, State.tick_regs]
      ring
    · rintro f ⟨hshreg, -, hrx⟩
      refine ⟨hshreg, ?_, hrx⟩
      have hturn : 15 - (16 - s.regs.bitcnt.toNat) = s.regs.bitcnt.toNat - 1 := by omega
      have hleft : ¬ 15 < 16 - s.regs.bitcnt.toNat := by omega
      change (s.regs.shreg).getLsbD 15 = _
      rw [hshreg, BitVec.getLsbD_shiftLeft, hturn]
      simp [hleft]
  next hbits =>
    have hzero : s.regs.bitcnt.toNat = 0 := by omega
    refine (State.inv_iff_of (c := .spiTail) rfl).2 ⟨hclk, BitVec.eq_of_toNat_eq hzero,
      hx.enter hend ?_ ⟨rfl, rfl, rfl, rfl, rfl⟩ ⟨rfl, rfl, rfl⟩ ?_⟩
    · simp [hzero]; ring
    · rintro f ⟨hshreg, hmosi, -⟩
      simp [hshreg, hmosi, hzero]

theorem State.Inv.spiTailStep (h : s.Inv) (hc : s.regs.ctl = .spiTail) : (spiTailStep s).Inv := by
  obtain ⟨hclk, hbits, hbus, -, -, hdut, ⟨herr, -⟩, -⟩ := (State.inv_iff_of hc).1 h
  refine h.fixedPhase (by simp [Regs.busy, hc]) (fun k => by simp [Regs.CountInv, hc]) fun hend => ?_
  exact (State.inv_iff_of (c := .idle) rfl).2 ⟨hbus, ⟨rfl, hclk, hbits⟩, herr, rfl, hdut, rfl⟩

end InvariantPhases

end Sys2Proof.Machine

namespace Sys2Proof.Machine

open Sys2Proof

section InvariantWishbone

variable {s t : State} {x : Sample} {f : Flight}

/-! ### The edges of a WB command keep the invariant (`41_wishbone.md`) -/

theorem State.Inv.riseWait (h : s.Inv) (hc : s.regs.ctl = .requestAsserted ∨ s.regs.ctl = .awaitAckRise) :
    s.RiseWait ∧ s.regs.cnt.toNat < s.params.ackTimeout.val := by
  obtain hc | hc := hc
  · obtain ⟨hrise, hcnt⟩ := (State.inv_iff_of hc).1 h
    exact ⟨hrise, by rw [hcnt]; exact s.params.ackTimeout.property.1⟩
  · obtain ⟨hrise, -, hlt⟩ := (State.inv_iff_of hc).1 h
    exact ⟨hrise, hlt⟩

/-- Capturing writes `rdata` and nothing else. -/
theorem State.capture_eq (x : Sample) : s.capture x =
    { s with regs := { s.regs with rdata := if s.regs.txnOp = opWbRead then x.wbDatOut else s.regs.rdata } } := by
  unfold State.capture
  split_ifs <;> rfl

/-- A timeout of either wait leads to a state with the invariant: HALTED, the outputs as they were. -/
theorem State.inv_raise_timeout {e : ErrCode} (he : e = .ackTimeout ∨ e = .ackNotReleased)
    (hbus : if e = .ackTimeout then s.regs.Requesting else s.regs.bus.Idle)
    (hlatch : s.regs.Latched) (hlink : s.regs.LinkRest) (hdut : s.regs.dutRst = false)
    (hlt : s.regs.cnt.toNat < s.params.ackTimeout.val) (hend : s.atLimit s.params.ackTimeout = true) :
    (s.tick.raise e s.regs.txnOp s.regs.txnAddr s.phaseCount).Inv := by
  have helapsed : s.phaseCount.toNat = s.params.ackTimeout.val := by
    rw [State.phaseCount_toNat hlt, State.atLimit_iff.1 hend]
  obtain ⟨hop, -, -⟩ := hlatch
  refine (State.inv_iff_of (c := .halted) rfl).2 ⟨hbus, hlink, ⟨hop, ?_⟩, hlt, hdut, rfl, rfl⟩
  obtain rfl | rfl := he <;> exact ⟨rfl, rfl, helapsed⟩

theorem State.Inv.ackRiseStep (h : s.Inv)
    (hc : s.regs.ctl = .requestAsserted ∨ s.regs.ctl = .awaitAckRise) : (ackRiseStep x s).Inv := by
  obtain ⟨⟨hreq, hlatch, hlink, hdut, ⟨herr, hvalid⟩, f, ⟨hf, hedge⟩, hrise, hdat⟩, hlt⟩ := h.riseWait hc
  unfold Machine.ackRiseStep
  split
  · rw [State.capture_eq]
    refine (State.inv_iff_of (c := .awaitAckFall) rfl).2 ⟨⟨rfl, rfl, rfl, rfl, rfl⟩, hlatch, hlink,
      s.params.ackTimeout.property.1, hdut, ⟨herr, rfl⟩, { f with riseLen := s.regs.cnt.toNat + 1 },
      ⟨?_, ?_⟩, Nat.le_add_left 1 _, hlt⟩
    · simp [hf]
    · simp [hedge]; omega
  · split
    next hend => exact State.inv_raise_timeout (.inl rfl) hreq hlatch hlink hdut hlt hend
    next hend =>
      rw [State.atLimit_iff] at hend
      have hk : (s.tick.stay .awaitAckRise s.phaseCount).regs.cnt.toNat = s.regs.cnt.toNat + 1 :=
        State.phaseCount_toNat hlt
      refine (State.inv_iff_of (c := .awaitAckRise) rfl).2 ⟨⟨hreq, hlatch, hlink, hdut, ⟨herr, rfl⟩, f,
        ⟨hf, ?_⟩, hrise, hdat⟩, ?_, ?_⟩
      · rw [hk, State.stay_edge, State.tick_edge, hedge, Nat.add_assoc]
      · omega
      · rw [hk, State.stay_params, State.tick_params]
        omega

theorem State.Inv.ackFallStep (h : s.Inv) (hc : s.regs.ctl = .awaitAckFall) : (ackFallStep x s).Inv := by
  obtain ⟨hbus, hlatch, hlink, hlt, hdut, ⟨herr, -⟩, -⟩ := (State.inv_iff_of hc).1 h
  unfold Machine.ackFallStep
  split
  · refine (State.inv_iff_of (c := .idle) (by rw [wbComplete_regs])).2 ?_
    simp only [State.InvAt, wbComplete_regs]
    exact ⟨hbus, hlink, herr, trivial, hdut, rfl⟩
  · split
    next hend => exact State.inv_raise_timeout (.inr rfl) hbus hlatch hlink hdut hlt hend
    next hend =>
      rw [State.atLimit_iff] at hend
      have hk := State.phaseCount_toNat hlt
      rw [← hc]
      exact h.stay (by simp [Regs.busy, hc]) hk (by simp only [Regs.CountInv, hc]; omega)

end InvariantWishbone

section InvariantEdges

variable {s t : State} {x : Sample}

/-- A phase's own edge keeps the invariant. -/
theorem State.Inv.phaseResult (h : s.Inv) (hi : s.regs.ctl ≠ .idle) : (phaseResult s).Inv := by
  unfold Machine.phaseResult
  cases hc : s.regs.ctl with
  | idle => exact absurd hc hi
  | reserved k => exact absurd hc (h.legalCtl k)
  | requestAsserted => exact h.ackRiseStep (.inl hc)
  | awaitAckRise => exact h.ackRiseStep (.inr hc)
  | awaitAckFall => exact h.ackFallStep hc
  | rstAssert => exact h.rstAssertStep hc
  | rstRelease => exact h.rstReleaseStep hc
  | spiCsSetup => exact h.spiCsSetupStep hc
  | spiBitHigh => exact h.spiBitHighStep hc
  | spiBitLow => exact h.spiBitLowStep hc
  | spiTail => exact h.spiTailStep hc
  | halted => exact h.tick (by simp [Regs.busy, hc])

/-! ### The accept edges keep the invariant (`30_encoding.md` R84) -/

/-- A WB command's accept edge, its request driven with the opcode's direction. -/
theorem State.Inv.acceptWb {op : OpCode} {addr operand : Word} {bus : BusOut} (h : s.Inv)
    (hc : s.regs.ctl = .idle) (hop : op = 2#3 ∨ op = 3#3)
    (hreq : ({ s.regs with bus := bus, txnOp := op, txnAddr := addr }).Requesting)
    (hdat : bus.we = true → bus.datIn = operand)
    (ht : Machine.acceptWb op addr operand bus x s = .next t) : t.Inv := by
  obtain ⟨hidle, hlink, herr, hcnt, hdut, -⟩ := (State.inv_iff_of hc).1 h
  obtain ⟨hdone, ⟨-, rfl⟩ | ⟨-, rfl⟩⟩ := acceptWb_next ht
  · refine (State.inv_iff_of (c := .halted) rfl).2 ⟨hidle, hlink, ⟨hop, rfl⟩, ?_, hdut, rfl, rfl⟩
    change s.regs.cnt.toNat < s.params.ackTimeout.val
    rw [hcnt]
    exact s.params.ackTimeout.property.1
  · have hwe : bus.we = (op == 2#3) := by obtain ⟨-, -, -, -, hwe, -⟩ := hreq; exact hwe
    exact (State.inv_iff_of (c := .requestAsserted) rfl).2 ⟨⟨hreq, ⟨hop, hdone, hwe⟩, hlink, hdut,
      ⟨herr, rfl⟩, _, ⟨rfl, rfl⟩, rfl, hdat⟩, rfl⟩

theorem State.Inv.onAccept {d : Decoded} (h : s.Inv) (hc : s.regs.ctl = .idle)
    (ht : onAccept d x s = .next t) : t.Inv := by
  obtain ⟨hidle, hlink, herr, -, hdut, -⟩ := (State.inv_iff_of hc).1 h
  cases d with
  | reserved op => cases ht
  | instr i =>
    cases i with
    | reset =>
      cases ht
      exact (State.inv_iff_of (c := .rstAssert) rfl).2 ⟨⟨⟨rfl, rfl, rfl, rfl, rfl⟩, hlink,
        s.params.resetAssert.property.1, ⟨herr, rfl⟩, _, rfl, rfl⟩, rfl⟩
    | wbWrite addr data =>
      exact h.acceptWb (op := opWbWrite) (bus := s.regs.bus.driveWrite addr data) hc (.inl rfl)
        ⟨rfl, rfl, rfl, rfl, rfl, by simp⟩ (fun _ => rfl) ht
    | wbRead addr =>
      obtain ⟨-, -, -, -, hdat⟩ := hidle
      exact h.acceptWb (op := opWbRead) (bus := s.regs.bus.driveRead addr) hc (.inr rfl)
        ⟨rfl, rfl, rfl, rfl, rfl, fun _ => hdat⟩ (by simp) ht
    | spiExchange value =>
      cases ht
      obtain ⟨-, hclk, -⟩ := hlink
      exact (State.inv_iff_of (c := .spiCsSetup) rfl).2 ⟨hclk, rfl, hidle, rfl, s.params.settle.property.1, hdut,
        ⟨herr, rfl⟩, _, ⟨rfl, rfl⟩, (fieldValue_setWidth value).symm, rfl⟩

/-- Every edge keeps the invariant. -/
theorem State.Inv.step (h : s.Inv) (ht : step s = .next t) : t.Inv := by
  rw [step_eq_edgeWith] at ht
  obtain ⟨-, rfl⟩ | ⟨⟨-, hc, -⟩, hx⟩ | ⟨-, -, hi, -, rfl⟩ := edgeWith_next ht
  · exact State.inv_of_por rfl rfl
  · cases hw : s.presented with
    | none =>
      simp only [onPorts, hw] at hx
      cases hx
      exact h.tick (by simp [Regs.busy, hc])
    | some w =>
      simp only [onPorts, hw] at hx
      exact h.onAccept hc hx
  · exact h.phaseResult hi

end InvariantEdges

section Runs

variable {s t : State}

/-! ### What every run keeps -/

/-- A run of `n + 1` edges that answers a state is an edge and a run of `n` edges. -/
theorem exists_step_of_runEdges_succ {n : Nat} (h : runEdges (n + 1) s = .next t) :
    ∃ u, Machine.step s = .next u ∧ runEdges n u = .next t := by
  cases hu : Machine.step s with
  | next u => exact ⟨u, rfl, runEdges_succ hu ▸ h⟩
  | fault f => simp [runEdges, hu] at h
  | refused r => simp [runEdges, hu] at h

/-- A property that every edge keeps holds after any number of edges. -/
theorem runEdges_induction {P : State → Prop} (hstep : ∀ u v, P u → Machine.step u = .next v → P v) (n : Nat) :
    ∀ {s t : State}, P s → runEdges n s = .next t → P t := by
  induction n with
  | zero => intro s t hs h; cases h; exact hs
  | succ n ih =>
    intro s t hs h
    obtain ⟨u, hu, hrun⟩ := exists_step_of_runEdges_succ h
    exact ih (hstep s u hs hu) hrun

theorem State.inv_launchClean (p : Params) (prog : List CmdWord) (xs : List Sample) :
    (State.launchClean p prog xs).Inv :=
  State.inv_of_por rfl rfl

/-- Strobe or cycle is high only while a request is made or after an AckTimeout. -/
theorem State.Inv.ctl_of_strobe (h : s.Inv) (hs : s.regs.bus.stb = true ∨ s.regs.bus.cyc = true) :
    s.regs.ctl = .requestAsserted ∨ s.regs.ctl = .awaitAckRise ∨
      (s.regs.ctl = .halted ∧ s.regs.err.code = .ackTimeout) := by
  have hbus := h.bus
  have hnot : ¬ s.regs.bus.Idle := by rintro ⟨h1, h2, -⟩; simp [h1, h2] at hs
  unfold Regs.BusInv at hbus
  cases hc : s.regs.ctl with
  | requestAsserted => exact .inl rfl
  | awaitAckRise => exact .inr (.inl rfl)
  | halted =>
    rw [hc] at hbus
    by_cases he : s.regs.err.code = .ackTimeout
    · exact .inr (.inr ⟨rfl, he⟩)
    · simp only [he] at hbus; exact absurd hbus hnot
  | idle | awaitAckFall | rstAssert | rstRelease | spiCsSetup | spiBitHigh | spiBitLow | spiTail | reserved _ =>
    rw [hc] at hbus
    exact absurd hbus hnot

end Runs

/-- Settles O48: an edge is a POR edge, an accept edge or a phase's own, and each keeps the invariant. -/
theorem everyStepKeepsTheInvariant : Obligations.EveryStepKeepsTheInvariant :=
  fun _ _ h ht => h.step ht

/-- Settles O49: the registers hold the POR values and no command is in progress. -/
theorem launchMeetsTheInvariant : Obligations.LaunchMeetsTheInvariant :=
  ⟨State.inv_of_por rfl rfl, State.inv_launchClean⟩

/-- Settles O50: the invariant holds along the run, and its bus clause says when a request is driven. -/
theorem runsKeepTheBusIdleBetweenRequests : Obligations.RunsKeepTheBusIdleBetweenRequests := by
  intro p prog xs n t hrun
  have h : t.Inv := runEdges_induction (fun _ _ hu hv => hu.step hv) n (State.inv_launchClean p prog xs) hrun
  refine ⟨fun hc => ?_, h.ctl_of_strobe, fun hc => ?_⟩
  · obtain ⟨hidle, -⟩ := (State.inv_iff_of hc).1 h
    exact hidle
  · obtain ⟨⟨⟨hstb, hcyc, hsel, -⟩, -⟩, -⟩ := h.riseWait hc
    exact ⟨hstb, hcyc, hsel⟩

end Sys2Proof.Machine

namespace Sys2Proof.Machine

open Sys2Proof

section Bound

variable {s t : State} {x : Sample} {limit : Limit} {finish : State → State}

/-! ### The bound on the edges left (`70_reset_and_hazards.md` R209, R212) -/

/-- Counting one more edge of the same phase brings the bound one nearer. -/
theorem Regs.remaining_lt_of_succ {r : Regs} {p : Params} {k : Word} (hb : r.busy = true)
    (hr : ∀ k, r.ctl ≠ .reserved k) (hcount : r.CountInv p) (hk : k.toNat = r.cnt.toNat + 1) :
    ({ r with cnt := k }).remaining p < r.remaining p := by
  have hmul : ∀ n, p.settle.val ≤ p.settle.val * (n + 1) := fun n => Nat.le_mul_of_pos_right _ n.succ_pos
  have hN := p.ackTimeout.property.1
  unfold Regs.CountInv at hcount
  cases hc : r.ctl with
  | idle | halted => simp [Regs.busy, hc] at hb
  | reserved k => exact absurd hc (hr k)
  | requestAsserted =>
    simp only [hc] at hcount
    simp only [Regs.remaining, hc, hk, hcount, BitVec.toNat_ofNat]
    omega
  | awaitAckRise | awaitAckFall | rstAssert | rstRelease | spiTail =>
    simp only [hc] at hcount
    simp only [Regs.remaining, hc, hk]
    omega
  | spiCsSetup | spiBitHigh | spiBitLow =>
    simp only [hc] at hcount
    simp only [Regs.remaining, hc, hk]
    refine Nat.sub_lt_sub_left (Nat.lt_of_lt_of_le hcount (hmul _)) (Nat.lt_succ_self _)

/-- The bound comes nearer at every edge of a fixed phase if it does at the last. -/
theorem State.Inv.remaining_fixedPhase_lt (h : s.Inv) (hb : s.regs.busy = true)
    (hlt : s.regs.cnt.toNat < limit.val)
    (hend : s.regs.cnt.toNat + 1 = limit.val →
      (finish s.tick).regs.remaining s.params < s.regs.remaining s.params) :
    (s.fixedPhase limit finish).regs.remaining s.params < s.regs.remaining s.params := by
  unfold State.fixedPhase
  split
  next hlim => exact hend (State.atLimit_iff.1 hlim)
  next => exact Regs.remaining_lt_of_succ hb h.legalCtl h.count (State.phaseCount_toNat hlt)

theorem State.Inv.remaining_ackRiseStep_lt (h : s.Inv)
    (hc : s.regs.ctl = .requestAsserted ∨ s.regs.ctl = .awaitAckRise) :
    (Machine.ackRiseStep x s).regs.remaining s.params < s.regs.remaining s.params := by
  obtain ⟨-, hlt⟩ := h.riseWait hc
  have hk := State.phaseCount_toNat hlt
  have hs : s.regs.remaining s.params = 2 * s.params.ackTimeout.val - s.regs.cnt.toNat := by
    obtain hc | hc := hc <;> simp only [Regs.remaining, hc]
  rw [ackRiseStep_regs, hs]
  split
  · change s.params.ackTimeout.val - 0 < _
    omega
  split
  · change 0 < _
    omega
  · change 2 * s.params.ackTimeout.val - s.phaseCount.toNat < _
    omega

theorem State.Inv.remaining_ackFallStep_lt (h : s.Inv) (hc : s.regs.ctl = .awaitAckFall) :
    (Machine.ackFallStep x s).regs.remaining s.params < s.regs.remaining s.params := by
  obtain ⟨-, -, -, hlt, -⟩ := (State.inv_iff_of hc).1 h
  have hk := State.phaseCount_toNat hlt
  have hs : s.regs.remaining s.params = s.params.ackTimeout.val - s.regs.cnt.toNat := by
    simp only [Regs.remaining, hc]
  rw [ackFallStep_regs, wbComplete_regs, hs]
  split_ifs
  any_goals
    change 0 < _
    omega
  change s.params.ackTimeout.val - s.phaseCount.toNat < _
  omega

/-- At every edge of a busy block the phase's own step comes nearer the bound. -/
theorem State.Inv.remaining_phaseResult_lt (h : s.Inv) (hb : s.regs.busy = true) :
    (Machine.phaseResult s).regs.remaining s.params < s.regs.remaining s.params := by
  unfold Machine.phaseResult
  have hcount := h.count
  have hbits := h.bits
  unfold Regs.CountInv at hcount
  unfold Regs.BitInv at hbits
  cases hc : s.regs.ctl with
  | idle | halted => simp [Regs.busy, hc] at hb
  | reserved k => exact absurd hc (h.legalCtl k)
  | requestAsserted => exact h.remaining_ackRiseStep_lt (.inl hc)
  | awaitAckRise => exact h.remaining_ackRiseStep_lt (.inr hc)
  | awaitAckFall => exact h.remaining_ackFallStep_lt hc
  | rstAssert | rstRelease | spiTail =>
    simp only [hc] at hcount
    exact h.remaining_fixedPhase_lt hb hcount fun hend => by simp [Regs.remaining, hc]; omega
  | spiCsSetup =>
    simp only [hc] at hcount hbits
    refine h.remaining_fixedPhase_lt hb hcount fun hend => ?_
    change s.params.settle.val * (2 * s.regs.bitcnt.toNat + 1) - 0 < _
    simp only [Regs.remaining, hc, hbits, BitVec.toNat_ofNat]
    omega
  | spiBitHigh =>
    simp only [hc] at hcount hbits
    refine h.remaining_fixedPhase_lt hb hcount fun hend => ?_
    change s.params.settle.val * (2 * (s.regs.bitcnt - 1#5).toNat + 2) - 0 < _
    have hleft : 2 * (s.regs.bitcnt - 1#5).toNat + 2 = 2 * s.regs.bitcnt.toNat := by bv_omega
    simp only [Regs.remaining, hc, hleft, Nat.mul_add]
    omega
  | spiBitLow =>
    simp only [hc] at hcount
    refine h.remaining_fixedPhase_lt hb hcount fun hend => ?_
    split
    · change s.params.settle.val * (2 * s.regs.bitcnt.toNat + 1) - 0 < _
      simp only [Regs.remaining, hc, Nat.mul_add]
      omega
    · change s.params.settle.val - 0 < _
      simp only [Regs.remaining, hc, Nat.mul_add]
      omega

end Bound

/-- Settles O51: a busy block with `por` low does its phase's own step. -/
theorem everyBusyEdgeComesNearerCompletion : Obligations.EveryBusyEdgeComesNearerCompletion := by
  intro s t h hb hp ht
  rw [(passed_step ht).params]
  rw [step_eq_edgeWith] at ht
  obtain ⟨high, -⟩ | ⟨⟨-, idle, -⟩, -⟩ | ⟨-, -, -, -, rfl⟩ := edgeWith_next ht
  · simp [hp] at high
  · exact absurd idle (Regs.ctl_ne_idle_of_busy hb)
  · exact h.remaining_phaseResult_lt hb

end Sys2Proof.Machine

namespace Sys2Proof.Machine

open Sys2Proof

section Ports

variable {s t : State} {w : CmdWord} {accept : Sample → State → Host.Outcome State Fault Refusal}

/-! ### What the ports show, and when it is read (`30_encoding.md` R84 to R86) -/

/-- A word that decodes to a command is run as that command. -/
theorem step_of_presented {i : Instr} (hw : s.presented = some w) (hd : decode w = .instr i) :
    step s = exec i s := by
  simp only [step, hw, hd]

/-- A word of the opcode table is the 67-bit word that decodes to its command. -/
theorem decode_of_decodeTableWord {nbits n : Nat} {i : Instr} (h : decodeTableWord nbits n = some i) :
    decode (BitVec.ofNat 67 (n % 2 ^ nbits)) = .instr i := by
  unfold decodeTableWord at h
  split at h
  · cases hd : decode (BitVec.ofNat 67 (n % 2 ^ nbits)) with
    | instr j => simpa [hd] using h
    | reserved op => simp [hd] at h
  · cases h

/-- A list padded to `n` entries and followed by `x` holds `x` at index `n`. -/
theorem getElem?_padded {α : Type} (l r : List α) (x y : α) (n : Nat) :
    ((l ++ List.replicate n y).take n ++ x :: r)[n]? = some x := by
  have hlen : ((l ++ List.replicate n y).take n).length = n := by simp
  rw [List.getElem?_append_right (by omega), hlen, Nat.sub_self]
  rfl

/-- The placed word is the one presented, whatever the program held. -/
theorem presented_withFetchWord (s : State) (nbits n : Nat) :
    (s.withFetchWord nbits n).presented = some (BitVec.ofNat 67 (n % 2 ^ nbits)) :=
  getElem?_padded s.program _ _ _ s.ci

/-- The state holds a reserved code in `ctl` or in `err_code` (`93_implementation_defined.md` I4). -/
abbrev State.HoldsReserved (s : State) : Prop :=
  (∃ k, s.regs.err.code = .reserved k) ∨ ∃ k, s.regs.ctl = .reserved k

theorem edgeWith_stuck (hp : s.sample.por = false) (h : s.HoldsReserved) : ∃ f, edgeWith accept s = .fault f := by
  obtain ⟨k, hk⟩ | ⟨k, hk⟩ := h
  · exact ⟨.reservedErrCode k, by simp [edgeWith, hp, hk]⟩
  · unfold edgeWith
    rw [hp, hk]
    cases s.regs.err.code with
    | reserved j => exact ⟨.reservedErrCode j, rfl⟩
    | none | protocolPrecondition | ackTimeout | ackNotReleased => exact ⟨.reservedCtl k, rfl⟩

/-- What every edge is: it has a next state, it is stuck on a reserved code, or it is what accepting does. -/
theorem edgeWith_cases (accept : Sample → State → Host.Outcome State Fault Refusal) (s : State) :
    (∃ t, edgeWith accept s = .next t) ∨
    (s.sample.por = false ∧ s.HoldsReserved ∧ ∃ f, edgeWith accept s = .fault f) ∨
    (s.Accepting ∧ edgeWith accept s = accept s.sample s) := by
  cases hp : s.sample.por with
  | true => exact .inl ⟨_, edgeWith_por hp⟩
  | false =>
    by_cases hres : s.HoldsReserved
    · exact .inr (.inl ⟨rfl, hres, edgeWith_stuck hp hres⟩)
    · rw [State.HoldsReserved] at hres
      push Not at hres
      obtain ⟨hl, hr⟩ := hres
      by_cases hi : s.regs.ctl = .idle
      · exact .inr (.inr ⟨⟨hp, hi, hl⟩, edgeWith_accepting ⟨hp, hi, hl⟩⟩)
      · exact .inl ⟨_, edgeWith_phase hp hl hi hr⟩

/-- An edge is refused only where the block accepts and what is presented is refused. -/
theorem edgeWith_refused {r : Refusal} (h : edgeWith accept s = .refused r) :
    s.Accepting ∧ accept s.sample s = .refused r := by
  obtain ⟨t, ht⟩ | ⟨-, -, f, hf⟩ | ⟨ha, hx⟩ := edgeWith_cases accept s
  · rw [ht] at h; cases h
  · rw [hf] at h; cases h
  · exact ⟨ha, hx ▸ h⟩

theorem acceptWb_refused {op : OpCode} {addr d : Word} {b : BusOut} {x : Sample} {r : Refusal}
    (h : acceptWb op addr d b x s = .refused r) : s.regs.resetDone = false ∧ r = .transactionBeforeReset := by
  unfold acceptWb at h
  split at h
  next hr => cases h; exact ⟨by simpa using hr, rfl⟩
  · split at h <;> cases h

/-- The two refusals, by what is accepted. -/
theorem onAccept_refused {x : Sample} {r : Refusal} (h : onAccept (decode w) x s = .refused r) :
    (s.regs.resetDone = false ∧ r = .transactionBeforeReset ∧ (fieldOp w = 0b010#3 ∨ fieldOp w = 0b011#3)) ∨
    (r = .reservedOpcode (fieldOp w) ∧ ReservedOp (fieldOp w)) := by
  cases hd : decode w with
  | reserved op =>
    obtain ⟨rfl, hop⟩ := decode_eq_reserved_iff.1 hd
    rw [hd] at h
    cases h
    exact .inr ⟨rfl, hop⟩
  | instr i =>
    have hop : fieldOp w = opcodeOf i := fieldOp_of_decode hd
    rw [hd] at h
    cases i with
    | reset | spiExchange value => cases h
    | wbWrite _ _ =>
      obtain ⟨hr, rfl⟩ := acceptWb_refused h
      exact .inl ⟨hr, rfl, .inl hop⟩
    | wbRead _ =>
      obtain ⟨hr, rfl⟩ := acceptWb_refused h
      exact .inl ⟨hr, rfl, .inr hop⟩

/-- Accepting is never stuck. -/
theorem onPorts_ne_fault {x : Sample} {f : Fault} : onPorts s x s ≠ .fault f := by
  intro h
  cases hw : s.presented with
  | none => simp [onPorts, hw] at h
  | some w =>
    simp only [onPorts, hw] at h
    cases hd : decode w with
    | reserved op => rw [hd] at h; cases h
    | instr i =>
      rw [hd] at h
      cases i with
      | reset | spiExchange value => cases h
      | wbWrite _ _ | wbRead _ =>
        simp only [onAccept, acceptWb] at h
        split_ifs at h

/-- An edge of the whole machine is stuck exactly on a reserved code, `por` being low. -/
theorem step_fault_iff : (∃ f, step s = .fault f) ↔ s.sample.por = false ∧ s.HoldsReserved := by
  rw [step_eq_edgeWith]
  constructor
  · rintro ⟨f, h⟩
    obtain ⟨t, ht⟩ | ⟨hp, hres, -⟩ | ⟨-, hx⟩ := edgeWith_cases (onPorts s) s
    · rw [ht] at h; cases h
    · exact ⟨hp, hres⟩
    · exact absurd (hx ▸ h) onPorts_ne_fault
  · rintro ⟨hp, hres⟩
    exact edgeWith_stuck hp hres

/-- A WB command accepted with the acknowledge already high raises ProtocolPrecondition (`41_wishbone.md` R123,
R173). -/
theorem exec_staleAck {i : Instr} {op : OpCode} {addr operand : Word} {bus : BusOut} (ha : s.Accepting)
    (hr : s.regs.resetDone = true) (hx : s.sample.wbAck = true)
    (hi : onAccept (.instr i) s.sample s = acceptWb op addr operand bus s.sample s) :
    exec i s = .next (s.tick.advanceCi.raise .protocolPrecondition op addr 0#32) := by
  rw [exec_of_accepting i ha, hi]
  simp [acceptWb, hr, hx]

end Ports

/-- Settles O6: `step` dispatches on the decoded word. -/
theorem stepRunsTheDecodedCommand : Obligations.StepRunsTheDecodedCommand :=
  fun _ _ _ hw hd => step_of_presented hw hd

/-- Settles O7: the word is put at the index the host presents from, and its number decodes. -/
theorem stepRunsThePlacedWord : Obligations.StepRunsThePlacedWord :=
  fun s nbits n _ hi => ⟨presented_withFetchWord s nbits n,
    step_of_presented (presented_withFetchWord s nbits n) (decode_of_decodeTableWord hi)⟩

/-- Settles O8: both are `edgeWith`, which asks the ports only at an accept edge. -/
theorem commandPortsIgnoredUnlessAccepting : Obligations.CommandPortsIgnoredUnlessAccepting := by
  intro s i h
  rw [exec_eq_edgeWith, step_eq_edgeWith]
  exact edgeWith_ports_ignored h

/-- Settles O11: only an accept edge can be refused, and there only for one of the two reasons. -/
theorem onlyTwoRefusals : Obligations.OnlyTwoRefusals := by
  intro s r h
  rw [step_eq_edgeWith] at h
  obtain ⟨ha, hx⟩ := edgeWith_refused h
  cases hw : s.presented with
  | none => simp [onPorts, hw] at hx
  | some w =>
    simp only [onPorts, hw] at hx
    exact ⟨ha, w, rfl, onAccept_refused hx⟩

/-- Settles O12: such an edge only passes, and passing clears `rsp_valid`. -/
theorem quietEdgeKeepsEveryRegister : Obligations.QuietEdgeKeepsEveryRegister :=
  fun _ ha hn => step_of_accepting_of_presented_none ha hn

/-- Settles O13: the values are those of `Regs.por`. -/
theorem resetLeavesThePorValues : Obligations.ResetLeavesThePorValues :=
  ⟨rfl, rfl, rfl, rfl, rfl⟩

/-- Settles O22: for both commands the edge is `exec_staleAck`'s. -/
theorem staleAcknowledgeRaisesProtocolPrecondition : Obligations.StaleAcknowledgeRaisesProtocolPrecondition :=
  fun _ _ _ ha hr hx =>
    ⟨⟨_, exec_staleAck ha hr hx rfl, rfl, rfl⟩, ⟨_, exec_staleAck ha hr hx rfl, rfl, rfl⟩⟩

/-- Settles O39: the iff of `step_fault_iff`. -/
theorem stuckExactlyOnReservedCodes : Obligations.StuckExactlyOnReservedCodes :=
  fun _ => step_fault_iff

end Sys2Proof.Machine

namespace Sys2Proof.Machine

open Sys2Proof

section Codes

/-! ### STATUS and its codes (`10_state.md` R27, R39; `60_exceptions.md` R170) -/

/-- The control state that a code stands for (R27). -/
def ctlOfCode (n : BitVec 4) : Ctl :=
  match n.toNat with
  | 0 => .idle
  | 1 => .requestAsserted
  | 2 => .awaitAckRise
  | 3 => .awaitAckFall
  | 4 => .rstAssert
  | 5 => .rstRelease
  | 6 => .spiCsSetup
  | 7 => .spiBitHigh
  | 8 => .spiBitLow
  | 9 => .spiTail
  | 15 => .halted
  | k => .reserved (Fin.ofNat 5 (k - 10))

/-- The error that a code stands for (R170). -/
def errOfNumber (n : BitVec 3) : ErrCode :=
  match n.toNat with
  | 0 => .none
  | 1 => .protocolPrecondition
  | 2 => .ackTimeout
  | 3 => .ackNotReleased
  | k => .reserved (Fin.ofNat 4 (k - 4))

theorem ctlOfCode_ctlCode : Function.LeftInverse ctlOfCode ctlCode := by
  have hreserved : ∀ k : Fin 5, ctlOfCode (ctlCode (.reserved k)) = .reserved k := by decide
  intro c
  cases c with
  | reserved k => exact hreserved k
  | idle | requestAsserted | awaitAckRise | awaitAckFall | rstAssert | rstRelease | spiCsSetup | spiBitHigh
  | spiBitLow | spiTail | halted => rfl

theorem errOfNumber_errNumber : Function.LeftInverse errOfNumber errNumber := by
  have hreserved : ∀ k : Fin 4, errOfNumber (errNumber (.reserved k)) = .reserved k := by decide
  intro c
  cases c with
  | reserved k => exact hreserved k
  | none | protocolPrecondition | ackTimeout | ackNotReleased => rfl

end Codes

/-- Settles O41: each field is read back from the concatenation of R39. -/
theorem statusWordFields : Obligations.StatusWordFields := by
  intro r
  refine ⟨?_, ?_, ?_, ?_, ?_, ?_⟩
  case refine_3 => simp only [Regs.status, BitVec.getLsbD_cast, BitVec.getLsbD_append]; simp
  all_goals
    simp only [Regs.status, BitVec.extractLsb'_cast, BitVec.extractLsb'_append_eq_ite]
    simp

/-- Settles O42: the codes are evaluated, and each code names the state or error it came from. -/
theorem stateAndErrorCodes : Obligations.StateAndErrorCodes :=
  ⟨rfl, rfl, rfl, rfl, rfl, rfl, rfl, rfl, rfl, rfl, rfl, by decide, rfl, rfl, rfl, rfl, by decide,
    fun _ _ h => ctlOfCode_ctlCode.injective h, fun _ _ h => errOfNumber_errNumber.injective h⟩

/-- Settles O53: the rounded-up quotient is the least one whose product covers the time. -/
theorem timeoutCyclesAreTheLeastThatCoverTheBound : Obligations.TimeoutCyclesAreTheLeastThatCoverTheBound := by
  intro time period ht hp
  unfold Config.timeOf Config.timeoutCyclesOf
  have hdiv := Nat.div_add_mod (time + period - 1) period
  have hmod := Nat.mod_lt (time + period - 1) hp
  rw [Nat.mul_comm] at hdiv
  have hsub := Nat.sub_mul ((time + period - 1) / period) 1 period
  omega

/-- Settles O54: the pin is in the low half or in the high one, and the other half is 0. -/
theorem setOeWritesOneBitAcrossTwoHalves : Obligations.SetOeWritesOneBitAcrossTwoHalves := by
  intro q io hio
  refine ⟨oeLo io, oeHi io, by simp [assemble, hio], ?_⟩
  have hpin : io < 64 := by omega
  ext j hj
  by_cases h : io < 32
  · have h' : ¬ 32 ≤ io := by omega
    simp only [oeLo, oeHi, h, h', if_true, if_false, BitVec.getElem_cast, BitVec.getElem_append]
    simp
    grind
  · have h' : 32 ≤ io := by omega
    simp only [oeLo, oeHi, h, h', if_true, if_false, BitVec.getElem_cast, BitVec.getElem_append]
    simp
    grind

end Sys2Proof.Machine

namespace Sys2Proof.Machine

open Sys2Proof

section Responses

variable {s t : State} {x : Sample} {limit : Limit} {finish : State → State}

/-! ### Responses, errors and the record, edge by edge (`10_state.md` R37, `60_exceptions.md` R172) -/

/-- An edge of a fixed phase is its end or one more count. -/
theorem State.fixedPhase_eq_or : s.fixedPhase limit finish = finish s.tick ∨
    s.fixedPhase limit finish = s.tick.stay s.regs.ctl s.phaseCount :=
  ite_eq_or_eq _ _ _

/-- An accept edge leaves `rsp_op` and `rsp_data`. -/
theorem onAccept_rsp {d : Decoded} (h : onAccept d x s = .next t) : t.regs.rsp = s.regs.noRsp.rsp := by
  cases d with
  | reserved op => cases h
  | instr i =>
    cases i with
    | reset | spiExchange value => cases h; rfl
    | wbWrite _ _ | wbRead _ => obtain ⟨-, ⟨-, rfl⟩ | ⟨-, rfl⟩⟩ := acceptWb_next h <;> rfl

/-- A phase's edge responds, or leaves `rsp_op` and `rsp_data`. -/
theorem phaseResult_rsp (hi : s.regs.ctl ≠ .idle) (hr : ∀ k, s.regs.ctl ≠ .reserved k) :
    (phaseResult s).regs.rsp.valid = true ∨ (phaseResult s).regs.rsp = s.regs.noRsp.rsp := by
  unfold phaseResult
  cases hc : s.regs.ctl with
  | idle => exact absurd hc hi
  | reserved k => exact absurd hc (hr k)
  | halted => exact .inr rfl
  | requestAsserted | awaitAckRise =>
    right
    simp only [ackRiseStep_regs]
    split
    · rfl
    · split <;> rfl
  | awaitAckFall =>
    simp only [ackFallStep_regs, wbComplete_regs]
    split
    · left; split_ifs <;> rfl
    · right; split <;> rfl
  | rstAssert | spiCsSetup | spiBitHigh =>
    right
    simp only [rstAssertStep, spiCsSetupStep, spiBitHighStep, State.fixedPhase_regs]
    split <;> rfl
  | spiBitLow =>
    right
    simp only [spiBitLowStep_regs]
    split
    · split <;> rfl
    · rfl
  | rstRelease | spiTail =>
    simp only [rstReleaseStep, spiTailStep, State.fixedPhase_regs]
    split
    · exact .inl rfl
    · exact .inr rfl

/-- Every edge without `por` responds, or leaves `rsp_op` and `rsp_data`. -/
theorem step_rsp (hp : s.sample.por = false) (h : step s = .next t) :
    t.regs.rsp.valid = true ∨ t.regs.rsp = s.regs.noRsp.rsp := by
  rw [step_eq_edgeWith] at h
  obtain ⟨high, -⟩ | ⟨-, hx⟩ | ⟨-, -, hi, hr, rfl⟩ := edgeWith_next h
  · simp [hp] at high
  · cases hw : s.presented with
    | none => simp only [onPorts, hw] at hx; cases hx; exact .inr rfl
    | some w => simp only [onPorts, hw] at hx; exact .inr (onAccept_rsp hx)
  · exact phaseResult_rsp hi hr

/-- An edge that adds no response. -/
theorem noResponse_of_valid_false (h : step s = .next t) (hv : t.regs.rsp.valid = false)
    (hresp : t.responses = s.responses) :
    t.regs.rsp.valid = false ∧ t.responses = s.responses ∧
      (s.sample.por = false → t.regs.rsp = { s.regs.rsp with valid := false }) :=
  ⟨hv, hresp, fun hp => (step_rsp hp h).resolve_left (by simp [hv])⟩

/-- A wait that times out does nothing but take its error. -/
theorem phaseResult_of_halted (hi : s.regs.ctl ≠ .idle) (hr : ∀ k, s.regs.ctl ≠ .reserved k)
    (hh : s.regs.ctl ≠ .halted) (h : (phaseResult s).regs.ctl = .halted) :
    ∃ e, (e = .ackTimeout ∨ e = .ackNotReleased) ∧
      phaseResult s = s.tick.raise e s.regs.txnOp s.regs.txnAddr s.phaseCount := by
  have hfixed : ∀ {limit : Limit} {finish : State → State}, (finish s.tick).regs.ctl ≠ .halted →
      (s.fixedPhase limit finish).regs.ctl ≠ .halted := by
    intro limit finish hfinish
    obtain hx | hx := State.fixedPhase_eq_or (s := s) (limit := limit) (finish := finish) <;> rw [hx]
    · exact hfinish
    · exact hh
  unfold phaseResult at h ⊢
  cases hc : s.regs.ctl with
  | idle => exact absurd hc hi
  | reserved k => exact absurd hc (hr k)
  | halted => exact absurd hc hh
  | requestAsserted | awaitAckRise =>
    simp only [hc, ackRiseStep] at h ⊢
    split at h
    · simp at h
    · split at h
      next hx hlim => exact ⟨.ackTimeout, .inl rfl, by simp only [hx, hlim]; rfl⟩
      · simp at h
  | awaitAckFall =>
    simp only [hc, ackFallStep] at h ⊢
    split at h
    · rw [wbComplete_regs] at h; simp at h
    · split at h
      next hx hlim => exact ⟨.ackNotReleased, .inr rfl, by simp only [hx, hlim]; rfl⟩
      · simp at h
  | rstAssert | rstRelease | spiCsSetup | spiBitHigh | spiTail =>
    simp only [hc] at h
    exact absurd h (hfixed (by simp))
  | spiBitLow =>
    simp only [hc] at h
    exact absurd h (hfixed (by split <;> simp))

/-- An edge that enters HALTED does nothing but take one of the three errors. -/
theorem step_halted_raises (h : step s = .next t) (hs : s.regs.ctl ≠ .halted) (ht : t.regs.ctl = .halted) :
    ∃ code, (code = .protocolPrecondition ∨ code = .ackTimeout ∨ code = .ackNotReleased) ∧
      ∃ op addr elapsed, t.regs = (s.tick.raise code op addr elapsed).regs ∧
        t.history = s.history ++ [.error op addr code elapsed] ∧ t.responses = s.responses ∧ t.flight = none := by
  rw [step_eq_edgeWith] at h
  obtain ⟨-, rfl⟩ | ⟨⟨-, hc, -⟩, hx⟩ | ⟨-, -, hi, hr, rfl⟩ := edgeWith_next h
  · simp [Regs.por] at ht
  · cases hw : s.presented with
    | none => simp only [onPorts, hw] at hx; cases hx; exact absurd ht hs
    | some w =>
      simp only [onPorts, hw] at hx
      cases hd : decode w with
      | reserved op => rw [hd] at hx; cases hx
      | instr i =>
        rw [hd] at hx
        cases i with
        | reset | spiExchange value => cases hx; cases ht
        | wbWrite _ _ | wbRead _ =>
          obtain ⟨-, ⟨-, rfl⟩ | ⟨-, rfl⟩⟩ := acceptWb_next hx
          · exact ⟨_, .inl rfl, _, _, _, rfl, rfl, rfl, rfl⟩
          · cases ht
  · obtain ⟨e, he, hres⟩ := phaseResult_of_halted hi hr hs ht
    exact ⟨e, .inr he, _, _, _, by rw [hres], by rw [hres]; rfl, by rw [hres]; rfl, by rw [hres]; rfl⟩

end Responses

/-- Settles O37: the edge is `raise` on the registers, and `raise` writes the context and `ctl` only. -/
theorem enteringHaltedRecordsAnErrorAndKeepsOutputs : Obligations.EnteringHaltedRecordsAnErrorAndKeepsOutputs :=
  fun _ _ h hs ht => step_halted_raises h hs ht

/-- Settles O40: of the kinds of edge only a completing one responds. -/
theorem responseIsValidOnlyAfterACompletionEdge : Obligations.ResponseIsValidOnlyAfterACompletionEdge := by
  intro s t h
  cases step_edgeKind h with
  | complete _ was done => exact .inl ⟨done.valid, was, done.ctl, done.responses⟩
  | por _ next | quiet _ _ next | halted _ _ next =>
    exact .inr (noResponse_of_valid_false h (by rw [next]; rfl) (by rw [next]; rfl))
  | start _ _ valid _ _ responses => exact .inr (noResponse_of_valid_false h valid responses)
  | failAtAccept _ _ fails | fail _ _ _ fails =>
    exact .inr (noResponse_of_valid_false h fails.valid fails.responses)
  | work _ _ _ valid same => exact .inr (noResponse_of_valid_false h valid same.responses)

/-- Settles O52: a completing edge or a failing one adds an event, and no other kind of edge does. -/
theorem recordGrowsByCompletionsAndErrors : Obligations.RecordGrowsByCompletionsAndErrors := by
  intro s t h
  cases step_edgeKind h with
  | por _ next | quiet _ _ next | halted _ _ next => exact .inl (by rw [next]; rfl)
  | start _ _ _ _ history => exact .inl history
  | work _ _ _ _ same => exact .inl same.history
  | complete low was done =>
    obtain hsame | ⟨e, -, he⟩ := done.history
    · exact .inl hsame
    · exact .inr ⟨e, he, done.flight, low, .inl ⟨was, done.valid, done.ctl⟩⟩
  | failAtAccept acc _ fails =>
    obtain ⟨op, addr, e, n, he⟩ := fails.history
    obtain ⟨low, idle, -⟩ := acc
    exact .inr ⟨_, he, fails.flight, low, .inr ⟨by simp [idle], fails.ctl⟩⟩
  | fail low was _ fails =>
    obtain ⟨op, addr, e, n, he⟩ := fails.history
    exact .inr ⟨_, he, fails.flight, low, .inr ⟨by intro hh; simp [Regs.busy, hh] at was, fails.ctl⟩⟩

end Sys2Proof.Machine

namespace Sys2Proof.Machine

open Sys2Proof

section Frames

variable {s t : State} {limit : Limit} {finish : State → State}

/-! ### Frames of the commands (`10_state.md` R47, `20_memory.md` R72) -/

/-- A command's edge without `por`: its accept edge, or the phase's own step. -/
theorem exec_next_cases {i : Instr} (h : exec i s = .next t) (hp : s.sample.por = false) :
    (s.regs.ctl = .idle ∧ onAccept (.instr i) s.sample s = .next t) ∨
    (s.regs.ctl ≠ .idle ∧ t = phaseResult s) := by
  rw [exec_eq_edgeWith] at h
  obtain ⟨high, -⟩ | ⟨⟨-, hc, -⟩, hx⟩ | ⟨-, -, hi, -, rfl⟩ := edgeWith_next h
  · simp [hp] at high
  · exact .inl ⟨hc, hx⟩
  · exact .inr ⟨hi, rfl⟩

/-- Everything the frame of SPI_EXCHANGE names is as it was. -/
structure BusKept (s t : State) : Prop where
  rdata : t.regs.rdata = s.regs.rdata
  txnOp : t.regs.txnOp = s.regs.txnOp
  txnAddr : t.regs.txnAddr = s.regs.txnAddr
  err : t.regs.err = s.regs.err
  resetDone : t.regs.resetDone = s.regs.resetDone
  bus : t.regs.bus = s.regs.bus
  dutRst : t.regs.dutRst = s.regs.dutRst
  params : t.params = s.params
  program : t.program = s.program

/-- One more count writes none of these, so a fixed phase keeps what its end keeps. -/
theorem busKept_fixedPhase (hend : BusKept s (finish s.tick)) : BusKept s (s.fixedPhase limit finish) := by
  obtain hx | hx := State.fixedPhase_eq_or (s := s) (limit := limit) (finish := finish) <;> rw [hx]
  · exact hend
  · exact ⟨rfl, rfl, rfl, rfl, rfl, rfl, rfl, rfl, rfl⟩

theorem busKept_phaseResult (hc : s.regs.ctl = .spiCsSetup ∨ s.regs.ctl = .spiBitHigh ∨ s.regs.ctl = .spiBitLow ∨
    s.regs.ctl = .spiTail) : BusKept s (phaseResult s) := by
  obtain hc | hc | hc | hc := hc <;> simp only [phaseResult, hc]
  · exact busKept_fixedPhase ⟨rfl, rfl, rfl, rfl, rfl, rfl, rfl, rfl, rfl⟩
  · exact busKept_fixedPhase ⟨rfl, rfl, rfl, rfl, rfl, rfl, rfl, rfl, rfl⟩
  · refine busKept_fixedPhase ?_
    split <;> exact ⟨rfl, rfl, rfl, rfl, rfl, rfl, rfl, rfl, rfl⟩
  · exact busKept_fixedPhase ⟨rfl, rfl, rfl, rfl, rfl, rfl, rfl, rfl, rfl⟩

end Frames

/-- Settles O43: the accept edge and both ends of the two phases write none of these, nor does one more count. -/
theorem resetFrame : Obligations.ResetFrame := by
  intro s t h hp hctl
  obtain ⟨hc, hx⟩ | ⟨hi, rfl⟩ := exec_next_cases h hp
  · cases hx
    exact ⟨rfl, rfl, rfl, rfl, rfl, rfl, rfl, rfl, rfl, rfl, rfl, id⟩
  · obtain hc | hc | hc := hctl
    · exact absurd hc hi
    · simp only [phaseResult, hc]
      obtain hx | hx := State.fixedPhase_eq_or (s := s) <;> rw [rstAssertStep, hx] <;> simp
    · simp only [phaseResult, hc]
      obtain hx | hx := State.fixedPhase_eq_or (s := s) <;> rw [rstReleaseStep, hx] <;> simp

/-- Settles O45: the accept edge writes none of these, nor does a phase (`busKept_phaseResult`). -/
theorem spiFrame : Obligations.SpiFrame := by
  intro value s t h hp hctl
  obtain ⟨hc, hx⟩ | ⟨hi, rfl⟩ := exec_next_cases h hp
  · cases hx
    exact ⟨rfl, rfl, rfl, rfl, rfl, rfl, rfl, rfl, rfl⟩
  · obtain ⟨hrdata, hop, haddr, herr, hdone, hbus, hdut, hparams, hprog⟩ :=
      busKept_phaseResult (hctl.resolve_left hi)
    exact ⟨hrdata, hop, haddr, herr, hdone, hbus, hdut, hparams, hprog⟩

end Sys2Proof.Machine

namespace Sys2Proof.Machine

open Sys2Proof

section WbFrames

variable {s t : State} {x : Sample}

/-! ### The frame of the WB commands (`10_state.md` R47, `41_wishbone.md` R126) -/

/-- No WB edge writes a serial register or output, `reset_done` or `dut_rst`. -/
structure SerialKept (r r' : Regs) : Prop where
  bitcnt : r'.bitcnt = r.bitcnt
  shreg : r'.shreg = r.shreg
  rxacc : r'.rxacc = r.rxacc
  resetDone : r'.resetDone = r.resetDone
  dutRst : r'.dutRst = r.dutRst
  link : r'.link = r.link

/-- What a WB edge may do to the read data and to the error context. -/
structure WbEdge (s t : State) : Prop where
  kept : SerialKept s.regs t.regs
  rdata : t.regs.rdata = s.regs.rdata ∨
    ((s.regs.ctl = .requestAsserted ∨ s.regs.ctl = .awaitAckRise) ∧ s.regs.txnOp = 0b011#3 ∧
      s.sample.wbAck = true ∧ t.regs.ctl = .awaitAckFall ∧ t.regs.rdata = s.sample.wbDatOut)
  err : t.regs.err = s.regs.err ∨ t.regs.ctl = .halted

theorem wbEdge_acceptWb {op : OpCode} {addr operand : Word} {bus : BusOut}
    (h : acceptWb op addr operand bus x s = .next t) : WbEdge s t := by
  obtain ⟨-, ⟨-, rfl⟩ | ⟨-, rfl⟩⟩ := acceptWb_next h
  · exact ⟨⟨rfl, rfl, rfl, rfl, rfl, rfl⟩, .inl rfl, .inr rfl⟩
  · exact ⟨⟨rfl, rfl, rfl, rfl, rfl, rfl⟩, .inl rfl, .inl rfl⟩

theorem wbEdge_ackRiseStep (hc : s.regs.ctl = .requestAsserted ∨ s.regs.ctl = .awaitAckRise) :
    WbEdge s (ackRiseStep s.sample s) := by
  unfold ackRiseStep
  split
  next hx =>
    rw [State.capture_eq]
    refine ⟨⟨rfl, rfl, rfl, rfl, rfl, rfl⟩, ?_, .inl rfl⟩
    by_cases hop : s.regs.txnOp = opWbRead
    · exact .inr ⟨hc, hop, hx, rfl, if_pos hop⟩
    · exact .inl (if_neg hop)
  · split
    · exact ⟨⟨rfl, rfl, rfl, rfl, rfl, rfl⟩, .inl rfl, .inr rfl⟩
    · exact ⟨⟨rfl, rfl, rfl, rfl, rfl, rfl⟩, .inl rfl, .inl rfl⟩

theorem wbEdge_ackFallStep : WbEdge s (ackFallStep x s) := by
  unfold ackFallStep
  split
  · unfold wbComplete
    split <;> exact ⟨⟨rfl, rfl, rfl, rfl, rfl, rfl⟩, .inl rfl, .inl rfl⟩
  · split
    · exact ⟨⟨rfl, rfl, rfl, rfl, rfl, rfl⟩, .inl rfl, .inr rfl⟩
    · exact ⟨⟨rfl, rfl, rfl, rfl, rfl, rfl⟩, .inl rfl, .inl rfl⟩

theorem wbEdge_phaseResult (hi : s.regs.ctl ≠ .idle) (hctl : s.regs.ctl = .idle ∨
      s.regs.ctl = .requestAsserted ∨ s.regs.ctl = .awaitAckRise ∨ s.regs.ctl = .awaitAckFall) :
    WbEdge s (phaseResult s) := by
  obtain hc | hc | hc | hc := hctl
  · exact absurd hc hi
  · simp only [phaseResult, hc]
    exact wbEdge_ackRiseStep (.inl hc)
  · simp only [phaseResult, hc]
    exact wbEdge_ackRiseStep (.inr hc)
  · simp only [phaseResult, hc]
    exact wbEdge_ackFallStep

end WbFrames

/-- Settles O44: the accept edge and both waits are WB edges; the parameters and the program stand at every
edge. -/
theorem wbFrame : Obligations.WbFrame := by
  intro i s t h hp hwb hctl
  have hpass := passed_exec h
  have hedge : WbEdge s t := by
    obtain ⟨-, hx⟩ | ⟨hi, rfl⟩ := exec_next_cases h hp
    · obtain ⟨addr, data, rfl⟩ | ⟨addr, rfl⟩ := hwb
      · exact wbEdge_acceptWb hx
      · exact wbEdge_acceptWb hx
    · exact wbEdge_phaseResult hi hctl
  obtain ⟨⟨hbits, hshreg, hrx, hdone, hdut, hlink⟩, hrdata, herr⟩ := hedge
  exact ⟨hbits, hshreg, hrx, hdone, hdut, hlink, hpass.params, hpass.program, hrdata, herr⟩

end Sys2Proof.Machine

namespace Sys2Proof.Machine

open Sys2Proof

section Noninterference

variable {s : State} {x : Sample} {i : Instr}

/-! ### What a command does not read (`40_clock_reset.md` R109, `41_wishbone.md` R122, `42_serial.md` R160) -/

/-- The state with another sample at the coming edge. -/
def State.withSample (x : Sample) (s : State) : State := { s with inputs := x :: s.inputs.tail }

theorem State.withBusLines_eq (s : State) (ack : Bool) (dat : Word) :
    s.withBusLines ack dat = s.withSample { s.sample with wbAck := ack, wbDatOut := dat } := rfl

theorem State.withMiso_eq (s : State) (miso : Bool) :
    s.withMiso miso = s.withSample { s.sample with spiMiso := miso } := rfl

theorem ackRiseStep_withSample (hack : x.wbAck = s.sample.wbAck) (hdat : x.wbDatOut = s.sample.wbDatOut) :
    ackRiseStep x (s.withSample x) = ackRiseStep s.sample s := by
  simp only [ackRiseStep, State.capture_eq, hack, hdat]
  rfl

theorem ackFallStep_withSample (hack : x.wbAck = s.sample.wbAck) :
    ackFallStep x (s.withSample x) = ackFallStep s.sample s := by
  simp only [ackFallStep, hack]
  rfl

theorem spiBitHighStep_withSample (hmiso : x.spiMiso = s.sample.spiMiso) :
    spiBitHighStep x (s.withSample x) = spiBitHighStep s.sample s := by
  simp only [spiBitHighStep, hmiso]
  rfl

/-- An edge at which a command is presented sees the coming sample only through `por` and the lines that the
accept edge or the phase reads: the bus lines in the two waits, `spi_miso` in SPI_BIT_HIGH. -/
theorem exec_withSample (hpor : x.por = s.sample.por)
    (haccept : onAccept (.instr i) x (s.withSample x) = onAccept (.instr i) s.sample s)
    (hbus : s.regs.ctl = .requestAsserted ∨ s.regs.ctl = .awaitAckRise ∨ s.regs.ctl = .awaitAckFall →
      x.wbAck = s.sample.wbAck ∧ x.wbDatOut = s.sample.wbDatOut)
    (hmiso : s.regs.ctl = .spiBitHigh → x.spiMiso = s.sample.spiMiso) :
    exec i (s.withSample x) = exec i s := by
  have hregs : (s.withSample x).regs = s.regs := rfl
  have hsample : (s.withSample x).sample = x := rfl
  rw [exec_eq_edgeWith, exec_eq_edgeWith]
  unfold edgeWith
  rw [hregs, hsample, hpor]
  cases s.sample.por with
  | true => rfl
  | false =>
    cases s.regs.err.code with
    | reserved k => rfl
    | none | protocolPrecondition | ackTimeout | ackNotReleased =>
      cases hc : s.regs.ctl with
      | idle => exact haccept
      | requestAsserted | awaitAckRise =>
        obtain ⟨hack, hdat⟩ := hbus (by simp [hc])
        exact congrArg Host.Outcome.next (ackRiseStep_withSample hack hdat)
      | awaitAckFall =>
        obtain ⟨hack, -⟩ := hbus (by simp [hc])
        exact congrArg Host.Outcome.next (ackFallStep_withSample hack)
      | spiBitHigh => exact congrArg Host.Outcome.next (spiBitHighStep_withSample (hmiso hc))
      | rstAssert | rstRelease | spiCsSetup | spiBitLow | spiTail | reserved _ | halted => rfl

end Noninterference

/-- Settles O46: their accept edges read no line, and no phase but the two waits reads the bus lines. -/
theorem resetAndSpiIgnoreTheBusLines : Obligations.ResetAndSpiIgnoreTheBusLines := by
  intro s value ack dat hreq hrise hfall
  have hbus : s.regs.ctl = .requestAsserted ∨ s.regs.ctl = .awaitAckRise ∨ s.regs.ctl = .awaitAckFall →
      ack = s.sample.wbAck ∧ dat = s.sample.wbDatOut := by
    simp [hreq, hrise, hfall]
  rw [State.withBusLines_eq]
  exact ⟨exec_withSample rfl rfl hbus fun _ => rfl, exec_withSample rfl rfl hbus fun _ => rfl⟩

/-- Settles O47: their accept edges do not read `spi_miso`, and no phase but SPI_BIT_HIGH does. -/
theorem resetAndWbIgnoreMiso : Obligations.ResetAndWbIgnoreMiso := by
  intro s addr data miso hhigh
  have hmiso : s.regs.ctl = .spiBitHigh → miso = s.sample.spiMiso := fun h => absurd h hhigh
  rw [State.withMiso_eq]
  exact ⟨exec_withSample rfl rfl (fun _ => ⟨rfl, rfl⟩) hmiso, exec_withSample rfl rfl (fun _ => ⟨rfl, rfl⟩) hmiso,
    exec_withSample rfl rfl (fun _ => ⟨rfl, rfl⟩) hmiso⟩

end Sys2Proof.Machine

namespace Sys2Proof.Machine

open Sys2Proof

section EndOfRun

variable {s t : State}

/-! ### The end of a run (`70_reset_and_hazards.md` R213) -/

theorem Regs.busy_iff {r : Regs} : r.busy = true ↔ r.ctl ≠ .idle ∧ r.ctl ≠ .halted := by
  simp [Regs.busy]

theorem State.tally_of_ready (hc : s.regs.ctl = .idle) (hle : s.completed ≤ s.ci) : s.Tally :=
  ⟨hle, by simp [Regs.busy, hc], by simp [hc]⟩

theorem State.tally_of_busy (hb : s.regs.busy = true) (hlt : s.completed < s.ci) : s.Tally :=
  ⟨hlt.le, fun _ => hlt, fun hc => absurd hc (Regs.busy_iff.1 hb).2⟩

/-- A failing edge of a command that has not completed. -/
theorem Fails.tally (h : Fails s t) (hlt : t.completed < t.ci) : t.Tally := by
  obtain ⟨op, addr, e, n, hhist⟩ := h.history
  exact ⟨hlt.le, fun _ => hlt, fun _ => ⟨hlt, by simp [State.hasFailed, hhist, Event.isError]⟩⟩

theorem State.Tally.step (hs : s.Tally) (h : step s = .next t) : t.Tally := by
  cases step_edgeKind h with
  | por _ next => subst next; exact State.tally_of_ready rfl hs.le
  | quiet _ _ next | halted _ _ next => subst next; exact ⟨hs.le, hs.busy, hs.halted⟩
  | start _ busy _ ci _ _ completed =>
    exact State.tally_of_busy busy (by have := hs.le; omega)
  | failAtAccept _ ci fails =>
    exact fails.tally (by have := hs.le; have := fails.completed; omega)
  | work _ was busy _ same =>
    exact State.tally_of_busy busy (by rw [same.completed, same.ci]; exact hs.busy was)
  | complete _ _ done => exact State.tally_of_ready done.ctl (by rw [done.completed, done.ci])
  | fail _ was ci fails => exact fails.tally (by rw [fails.completed, ci]; exact hs.busy was)

/-- The last edge of a run. -/
theorem exists_last_step (m : Nat) : ∀ {s t : State}, runEdges (m + 1) s = .next t →
    ∃ u, runEdges m s = .next u ∧ Machine.step u = .next t := by
  induction m with
  | zero =>
    intro s t h
    obtain ⟨u, hu, hrun⟩ := exists_step_of_runEdges_succ h
    cases hrun
    exact ⟨s, rfl, hu⟩
  | succ m ih =>
    intro s t h
    obtain ⟨v, hv, hrun⟩ := exists_step_of_runEdges_succ h
    obtain ⟨u, hu, hlast⟩ := ih hrun
    exact ⟨u, (runEdges_succ hv).trans hu, hlast⟩

theorem State.tally_launchClean (p : Params) (prog : List CmdWord) (xs : List Sample) :
    (State.launchClean p prog xs).Tally :=
  State.tally_of_ready rfl le_rfl

/-- No edge takes an event out of the record, so a run that has failed stays failed. -/
theorem hasFailed_step (hs : s.hasFailed = true) (h : step s = .next t) : t.hasFailed = true := by
  obtain hsame | ⟨e, he, -⟩ := recordGrowsByCompletionsAndErrors s t h
  · rw [State.hasFailed, hsame]; exact hs
  · rw [State.hasFailed, he, List.any_append]; exact Bool.or_eq_true_iff.2 (.inl hs)

theorem not_ended_of_hasFailed {n : Nat} (hs : s.hasFailed = true) (h : runEdges n s = .next t) : ¬ t.Ended := by
  have ht : t.hasFailed = true := runEdges_induction (fun _ _ hu hv => hasFailed_step hu hv) n hs h
  rintro ⟨-, -, -, hok⟩
  simp [ht] at hok

/-- An IDLE block with no command left, the last one abandoned: no edge changes that. -/
structure Abandoned (s : State) : Prop where
  idle : s.regs.ctl = .idle
  spent : s.program.length ≤ s.ci
  missed : s.completed < s.ci

theorem Abandoned.presented_eq_none (hs : Abandoned s) : s.presented = none := by
  unfold State.presented
  split
  · exact List.getElem?_eq_none hs.spent
  · rfl

theorem Abandoned.step (hs : Abandoned s) (h : step s = .next t) : Abandoned t := by
  obtain ⟨hidle, hspent, hmissed⟩ := hs
  rw [step_eq_edgeWith] at h
  obtain ⟨-, rfl⟩ | ⟨-, hx⟩ | ⟨-, -, hi, -⟩ := edgeWith_next h
  · exact ⟨rfl, hspent, hmissed⟩
  · simp only [onPorts, Abandoned.presented_eq_none ⟨hidle, hspent, hmissed⟩] at hx
    cases hx
    exact ⟨hidle, hspent, hmissed⟩
  · exact absurd hidle hi

/-- A busy block that takes a POR edge after its last accept edge never ends its run. -/
theorem not_ended_of_abandoned {n : Nat} (hs : s.Tally) (hlast : s.ci = s.program.length)
    (hb : s.regs.busy = true) (hp : s.sample.por = true) (h : runEdges n s = .next t) : ¬ t.Ended := by
  cases n with
  | zero =>
    cases h
    rintro ⟨-, hidle, -⟩
    exact Regs.ctl_ne_idle_of_busy hb hidle
  | succ n =>
    rw [runEdges_succ (step_por hp)] at h
    have hu : Abandoned s.tick.powerOn := ⟨rfl, hlast.ge, hs.busy hb⟩
    have ht : Abandoned t := runEdges_induction (fun _ _ hu hv => hu.step hv) n hu h
    rintro ⟨-, -, hdone, -⟩
    exact ht.missed.ne hdone

/-- The edge after which a run has ended first is a completing one. -/
theorem completes_of_first_end (hs : s.Tally) (h : step s = .next t) (hnot : ¬ s.Ended) (ht : t.Ended) :
    s.regs.busy = true ∧ Completes s t := by
  obtain ⟨hlast, hidle, hdone, hok⟩ := ht
  cases step_edgeKind h with
  | complete _ was done => exact ⟨was, done⟩
  | start _ busy => exact absurd hidle (Regs.ctl_ne_idle_of_busy busy)
  | work _ _ busy => exact absurd hidle (Regs.ctl_ne_idle_of_busy busy)
  | failAtAccept _ _ fails | fail _ _ _ fails => simp [fails.ctl] at hidle
  | quiet _ _ next | halted _ _ next => subst next; exact absurd ⟨hlast, hidle, hdone, hok⟩ hnot
  | por _ next =>
    subst next
    exfalso
    have hmissed : s.completed = s.ci := hdone
    by_cases hi : s.regs.ctl = .idle
    · exact hnot ⟨hlast, hi, hdone, hok⟩
    by_cases hh : s.regs.ctl = .halted
    · exact absurd hmissed (hs.halted hh).1.ne
    · exact absurd hmissed (hs.busy (Regs.busy_iff.2 ⟨hi, hh⟩)).ne

/-! #### One response per command -/

/-- Without POR every accepted command but the one in progress, or failed, has its response. -/
def Answered (s : State) : Prop :=
  s.responses.length + (if s.regs.ctl = .idle then 0 else 1) = s.ci

theorem Answered.step (hp : s.sample.por = false) (hs : Answered s) (h : step s = .next t) : Answered t := by
  unfold Answered at hs ⊢
  cases step_edgeKind h with
  | por high => simp [hp] at high
  | quiet _ _ next | halted _ _ next => subst next; exact hs
  | start acc busy _ ci _ responses =>
    obtain ⟨-, idle, -⟩ := acc
    rw [if_pos idle] at hs
    rw [if_neg (Regs.ctl_ne_idle_of_busy busy), responses, ci]
    omega
  | failAtAccept acc ci fails =>
    obtain ⟨-, idle, -⟩ := acc
    rw [if_pos idle] at hs
    rw [if_neg (by simp [fails.ctl]), fails.responses, ci]
    omega
  | work _ was busy _ same =>
    rw [if_neg (Regs.ctl_ne_idle_of_busy was)] at hs
    rw [if_neg (Regs.ctl_ne_idle_of_busy busy), same.responses, same.ci, hs]
  | complete _ was done =>
    rw [if_neg (Regs.ctl_ne_idle_of_busy was)] at hs
    rw [if_pos done.ctl, done.responses, done.ci, List.length_append, List.length_singleton]
    omega
  | fail _ was ci fails =>
    rw [if_neg (Regs.ctl_ne_idle_of_busy was)] at hs
    rw [if_neg (by simp [fails.ctl]), fails.responses, ci, hs]

theorem Answered.runEdges (n : Nat) : ∀ {s t : State}, s.PorLow n → Answered s → runEdges n s = .next t →
    Answered t ∧ t.program = s.program := by
  induction n with
  | zero => intro s t _ hs h; cases h; exact ⟨hs, rfl⟩
  | succ n ih =>
    intro s t hp hs h
    obtain ⟨u, hu, hrun⟩ := exists_step_of_runEdges_succ h
    have hpass := passed_step hu
    obtain ⟨ht, hprog⟩ := ih (hpass.porLow hp) (hs.step (hp 0 n.succ_pos) hu) hrun
    exact ⟨ht, hprog.trans hpass.program⟩

end EndOfRun

/-- Settles O55: POR and completion leave the note at most at the index, and accepting moves the index past it. -/
theorem everyStepKeepsTheTally : Obligations.EveryStepKeepsTheTally :=
  ⟨State.tally_of_ready rfl le_rfl, State.tally_launchClean, fun _ _ hs h => hs.step h⟩

/-- Settles O56: a step that responds is a completing one, which notes the index and adds no error event. -/
theorem completionOfTheLastCommandEndsTheRun : Obligations.CompletionOfTheLastCommandEndsTheRun := by
  intro s t h hlast hok hv
  have hdone : Completes s t := by
    cases step_edgeKind h with
    | complete _ _ done => exact done
    | por _ next | quiet _ _ next | halted _ _ next => subst next; cases hv
    | start _ _ valid | work _ _ _ valid => simp [valid] at hv
    | failAtAccept _ _ fails | fail _ _ _ fails => simp [fails.valid] at hv
  have hok' : t.hasFailed = false := by
    obtain hsame | ⟨e, hgood, he⟩ := hdone.history
    · rw [State.hasFailed, hsame]; exact hok
    · rw [State.hasFailed] at hok ⊢
      simp [he, hok, hgood]
  refine ⟨⟨?_, hdone.ctl, ?_, hok'⟩, by rw [State.result, hdone.responses]⟩
  · rw [hdone.ci, (passed_step h).program, hlast]
  · rw [hdone.completed, hdone.ci]

/-- Settles O57: the error event stays in the record, and an abandoned last command stays uncompleted. -/
theorem failedOrAbandonedRunNeverEnds : Obligations.FailedOrAbandonedRunNeverEnds :=
  fun _ _ _ hs h =>
    ⟨fun hh => not_ended_of_hasFailed (hs.halted hh).2 h, fun hf => not_ended_of_hasFailed hf h,
      fun hlast hb hp => not_ended_of_abandoned hs hlast hb hp h⟩

/-- Settles O58: a run of a program with a command has not ended at launch, and its first end is at a completing
edge. -/
theorem runEndsAtACompletionEdge : Obligations.RunEndsAtACompletionEdge := by
  intro p prog xs
  refine ⟨fun hnil => ⟨rfl, by subst hnil; exact ⟨rfl, rfl, rfl, rfl⟩, fun m u hm => absurd hm m.not_lt_zero⟩, ?_⟩
  rintro n t hprog ⟨hrun, hend, hfirst⟩
  cases n with
  | zero =>
    cases hrun
    obtain ⟨hlast, -⟩ := hend
    exact absurd (List.eq_nil_of_length_eq_zero hlast.symm) hprog
  | succ m =>
    obtain ⟨u, hu, hlast⟩ := exists_last_step m hrun
    have htally : u.Tally :=
      runEdges_induction (fun _ _ hs h => hs.step h) m (State.tally_launchClean p prog xs) hu
    obtain ⟨hbusy, hdone⟩ := completes_of_first_end htally hlast (hfirst m u m.lt_succ_self hu) hend
    exact ⟨m, u, rfl, hu, hbusy, hdone.valid, by rw [State.result, hdone.responses]⟩

/-- Settles O59: the answers are counted along the run. -/
theorem endedRunHasOneResponsePerCommand : Obligations.EndedRunHasOneResponsePerCommand := by
  rintro p prog xs n t hp h ⟨hlast, hidle, -⟩
  obtain ⟨ht, hprog⟩ := Answered.runEdges n hp (s := State.launchClean p prog xs) rfl h
  rw [Answered, if_pos hidle, Nat.add_zero, hlast, hprog] at ht
  exact ht

end Sys2Proof.Machine

namespace Sys2Proof.Machine

open Sys2Proof

section Waiting

variable {s t u v w : State} {f : Flight} {e n m : Nat} {r : Regs} {c : Ctl}

/-! ### A command in progress, edge by edge (`10_state.md` R28, `20_memory.md` R78) -/

/-- `t` is `n` edges after `s`, as far as the clock, the samples and the parameters tell. -/
structure Elapsed (n : Nat) (s t : State) : Prop where
  edge : t.edge = s.edge + n
  sampleAt : ∀ i, t.sampleAt i = s.sampleAt (n + i)
  params : t.params = s.params

theorem Elapsed.zero (s : State) : Elapsed 0 s s :=
  ⟨rfl, fun i => by rw [Nat.zero_add], rfl⟩

theorem Elapsed.passed (h : Elapsed n s t) (hp : Passed t u) : Elapsed (n + 1) s u where
  edge := by rw [hp.edge, h.edge, Nat.add_assoc]
  sampleAt i := by rw [hp.sampleAt, h.sampleAt, Nat.add_comm i 1, Nat.add_assoc]
  params := hp.params.trans h.params

/-- The command accepted at `s` is in progress as `f`, `e` edges after `s`, with the registers `r`; nothing has
been entered in the record yet. -/
structure During (s : State) (f : Flight) (e : Nat) (r : Regs) (v : State) : Prop where
  regs : v.regs = r
  ci : v.ci = s.ci + 1
  flight : v.flight = some f
  history : v.history = s.history
  responses : v.responses = s.responses
  elapsed : Elapsed e s v

theorem During.sample (h : During s f e r v) : v.sample = s.sampleAt e :=
  h.elapsed.sampleAt 0

/-- The registers after `n` edges spent waiting in the phase `c`, entered with `r`. -/
def Regs.waiting (c : Ctl) (n : Nat) (r : Regs) : Regs :=
  { r with ctl := if n = 0 then r.ctl else c, cnt := BitVec.ofNat 32 n }

/-- The first edge of a phase of a live block: the count is 0 and no response stands. -/
structure Regs.PhaseStart (r : Regs) : Prop where
  cnt : r.cnt = 0#32
  valid : r.rsp.valid = false
  live : ∀ k : Fin 4, r.err.code ≠ .reserved k

theorem Regs.PhaseStart.waiting_zero (h : r.PhaseStart) : r.waiting c 0 = r := by
  simp [Regs.waiting, ← h.cnt]

theorem Regs.waiting_cnt_toNat (hn : n < 4294967296) : (r.waiting c n).cnt.toNat = n :=
  Nat.mod_eq_of_lt hn

/-- One more edge of waiting. -/
theorem During.stay (h : During s f e (r.waiting c n) w) (hr : r.PhaseStart) :
    During s f (e + 1) (r.waiting c (n + 1)) (w.tick.stay c w.phaseCount) where
  regs := by
    have hrsp : ({ r.rsp with valid := false } : Rsp) = r.rsp := by rw [← hr.valid]
    simp [State.phaseCount, h.regs, Regs.waiting, hrsp, BitVec.ofNat_add]
  ci := h.ci
  flight := h.flight
  history := h.history
  responses := h.responses
  elapsed := h.elapsed.passed ⟨rfl, rfl, rfl, rfl⟩

/-- Waiting `n` edges in a phase, if each of them is one more count. -/
theorem During.wait (h : During s f e r v) (hr : r.PhaseStart)
    (hstay : ∀ m w, m < n → During s f (e + m) (r.waiting c m) w →
      step w = .next (w.tick.stay c w.phaseCount)) :
    ∃ w, runEdges n v = .next w ∧ During s f (e + n) (r.waiting c n) w := by
  induction n with
  | zero => exact ⟨v, rfl, by rw [hr.waiting_zero]; exact h⟩
  | succ n ih =>
    obtain ⟨w, hrun, hw⟩ := ih fun m w hm => hstay m w (Nat.lt_succ_of_lt hm)
    refine ⟨_, ?_, hw.stay hr⟩
    rw [runEdges_add hrun, runEdges_succ (hstay n w n.lt_succ_self hw)]
    rfl

/-- A waiting block is at a limit exactly when its next count is. -/
theorem During.atLimit_iff {limit : Limit} (h : During s f e (r.waiting c n) w) (hn : n < limit.val) :
    w.atLimit limit = true ↔ n + 1 = limit.val := by
  have hmax := limit.property.2
  rw [State.atLimit_iff, h.regs, Regs.waiting_cnt_toNat (by omega)]

section FixedPhase

variable {lim : Params → Limit} {finish : State → State → State}
  (hstep : ∀ w : State, w.sample.por = false → w.Live → w.regs.ctl = c →
    step w = .next (w.fixedPhase (lim w.params) (finish w)))
  (hc : r.ctl = c) (hr : r.PhaseStart)

include hstep hc hr

/-- The step of a block that waits in a fixed phase. -/
theorem During.step_fixedPhase (h : During s f e (r.waiting c m) w) (hp : (s.sampleAt e).por = false) :
    step w = .next (w.fixedPhase (lim s.params) (finish w)) := by
  rw [← h.elapsed.params]
  refine hstep w (by rw [h.sample, hp]) (by rw [State.Live, h.regs]; exact hr.live) ?_
  simp [h.regs, Regs.waiting, hc]

/-- Before its last edge a fixed phase waits. -/
theorem During.fixedWait (h : During s f e r v) (hn : n < (lim s.params).val)
    (hp : ∀ i, i < n → (s.sampleAt (e + i)).por = false) :
    ∃ w, runEdges n v = .next w ∧ During s f (e + n) (r.waiting c n) w := by
  refine h.wait hr fun m w hm hw => ?_
  have hctl : w.regs.ctl = c := by simp [hw.regs, Regs.waiting, hc]
  rw [hw.step_fixedPhase hstep hc hr (hp m hm), State.fixedPhase,
    if_neg (by rw [hw.atLimit_iff (by omega)]; omega), hctl]

/-- A fixed phase from its first edge: it waits, and performs its end at the last edge of the limit. -/
theorem During.fixedPhase (h : During s f e r v)
    (hp : ∀ i, i < (lim s.params).val → (s.sampleAt (e + i)).por = false) :
    ∃ w, During s f (e + ((lim s.params).val - 1)) (r.waiting c ((lim s.params).val - 1)) w ∧
      runEdges (lim s.params).val v = .next (finish w w.tick) := by
  obtain ⟨hpos, -⟩ := (lim s.params).property
  obtain ⟨w, hrun, hw⟩ := h.fixedWait hstep hc hr (n := (lim s.params).val - 1) (by omega)
    fun i hi => hp i (by omega)
  have hs := hw.step_fixedPhase hstep hc hr (hp _ (by omega))
  rw [State.fixedPhase, if_pos ((hw.atLimit_iff (by omega)).2 (by omega))] at hs
  refine ⟨w, hw, ?_⟩
  rw [← Nat.sub_add_cancel hpos, runEdges_add hrun, runEdges_succ hs]
  rfl

end FixedPhase

end Waiting

end Sys2Proof.Machine

namespace Sys2Proof.Machine

open Sys2Proof

section ResetRun

variable {s u v w : State} {f : Flight} {e : Nat} {r : Regs}

/-! ### The whole RESET (`40_clock_reset.md` R104 to R108) -/

/-- The command in progress from a RESET's accept edge on. -/
abbrev resetFlight (s : State) : Flight := { acceptEdge := s.edge, operand := 0#32, riseLen := 0 }

/-- The registers after the accept edge of a RESET, and with `dut_rst` low and another `ctl` at the end of its
first phase. -/
def resetRegs (s : State) (c : Ctl) (dutRst : Bool) : Regs :=
  { s.regs.noRsp with ctl := c, cnt := 0#32, bus := s.regs.bus.idled, dutRst := dutRst }

theorem resetRegs_phaseStart {c : Ctl} {d : Bool} (hl : s.Live) : (resetRegs s c d).PhaseStart :=
  ⟨rfl, rfl, hl⟩

theorem during_acceptReset (s : State) :
    During s (resetFlight s) 1 (resetRegs s .rstAssert true) (acceptReset s) :=
  ⟨rfl, rfl, rfl, rfl, rfl, (Elapsed.zero s).passed ⟨rfl, rfl, rfl, rfl⟩⟩

/-- RST_ASSERT lasts `RESET_ASSERT_CYCLES` edges with `dut_rst` high, and ends with it low. -/
theorem During.rstAssert (hl : s.Live) (hp : s.PorLow (s.params.resetAssert.val + 1))
    (h : During s f 1 (resetRegs s .rstAssert true) u) :
    (∀ n, n < s.params.resetAssert.val → ∃ t, runEdges n u = .next t ∧ t.regs.dutRst = true) ∧
    ∃ v, runEdges s.params.resetAssert.val u = .next v ∧
      During s f (s.params.resetAssert.val + 1) (resetRegs s .rstRelease false) v := by
  obtain ⟨hpos, -⟩ := s.params.resetAssert.property
  constructor
  · intro n hn
    obtain ⟨t, ht, hdt⟩ := h.fixedWait (lim := Params.resetAssert) (fun _ hp hl hc => step_rstAssert hp hl hc) rfl
      (resetRegs_phaseStart hl) hn fun i hi => hp _ (by omega)
    exact ⟨t, ht, by rw [hdt.regs]; rfl⟩
  · obtain ⟨w, hw, hrun⟩ := h.fixedPhase (lim := Params.resetAssert)
      (finish := fun _ t => (t.setDutRst false).enter .rstRelease)
      (fun _ hp hl hc => step_rstAssert hp hl hc) rfl (resetRegs_phaseStart hl) fun i hi => hp _ (by omega)
    refine ⟨_, hrun, ?_⟩
    have hcount : s.params.resetAssert.val + 1 = 1 + (s.params.resetAssert.val - 1) + 1 := by omega
    rw [hcount]
    exact ⟨by simp [hw.regs, Regs.waiting, resetRegs, Regs.noRsp], hw.ci, hw.flight, hw.history, hw.responses,
      hw.elapsed.passed ⟨rfl, rfl, rfl, rfl⟩⟩

end ResetRun

/-- Settles O18: the accept edge, RST_ASSERT to its end, RST_RELEASE to its end. -/
theorem resetCompletesAfterItsCycles : Obligations.ResetCompletesAfterItsCycles := by
  intro s ha hp
  obtain ⟨-, -, hl⟩ := id ha
  obtain ⟨hposA, -⟩ := s.params.resetAssert.property
  obtain ⟨hposB, -⟩ := s.params.resetRelease.property
  obtain ⟨-, v, hv, hdv⟩ := (during_acceptReset s).rstAssert hl fun i hi => hp i (by omega)
  obtain ⟨w, hw, hrun⟩ := hdv.fixedPhase (lim := Params.resetRelease)
    (fun _ hp hl hc => step_rstRelease hp hl hc) rfl (resetRegs_phaseStart hl) fun i hi => hp _ (by omega)
  refine ⟨_, _, exec_of_accepting .reset ha, (runEdges_add hv).trans hrun, ?_, ?_, hw.ci, rfl, ?_, ?_⟩
  · simp [hw.regs, Regs.waiting, resetRegs, Regs.noRsp, opReset]
  · simp [hw.elapsed.edge]
    omega
  · simp [hw.flight, hw.history]
  · simp [hw.responses, opReset]

/-- Settles O19: RST_ASSERT is the fixed phase after the accept edge. -/
theorem resetHoldsDutResetForAssertCycles : Obligations.ResetHoldsDutResetForAssertCycles := by
  intro s ha hp
  obtain ⟨-, -, hl⟩ := id ha
  obtain ⟨hhigh, t, ht, hdt⟩ := (during_acceptReset s).rstAssert hl hp
  exact ⟨_, exec_of_accepting .reset ha, hhigh, t, ht, by rw [hdt.regs]; rfl⟩

end Sys2Proof.Machine

namespace Sys2Proof.Machine

open Sys2Proof

section WishboneRun

variable {s t u v w : State} {f : Flight} {e n k j : Nat}
  {i : Instr} {op : OpCode} {addr operand : Word} {bus : BusOut}

/-! ### The whole WB command (`41_wishbone.md` R123 to R133) -/

/-- The command in progress from a WB request's accept edge on, its rise-wait length `k` once it is known. -/
def wbFlight (s : State) (operand : Word) (k : Nat) : Flight :=
  { acceptEdge := s.edge, operand := operand, riseLen := k }

/-- The registers after the accept edge of a WB request. -/
def requestRegs (s : State) (op : OpCode) (addr : Word) (bus : BusOut) : Regs :=
  { s.regs.noRsp with ctl := .requestAsserted, cnt := 0#32, bus := bus, txnOp := op, txnAddr := addr }

/-- The registers after the rise edge, at which the word `dat` was on the read data lines. -/
def risenRegs (s : State) (op : OpCode) (addr : Word) (bus : BusOut) (dat : Word) : Regs :=
  { requestRegs s op addr bus with
    ctl := .awaitAckFall, bus := bus.idled, rdata := if op = opWbRead then dat else s.regs.rdata }

theorem requestRegs_phaseStart (hl : s.Live) : (requestRegs s op addr bus).PhaseStart :=
  ⟨rfl, rfl, hl⟩

theorem risenRegs_phaseStart {dat : Word} (hl : s.Live) : (risenRegs s op addr bus dat).PhaseStart :=
  ⟨rfl, rfl, hl⟩

theorem during_request (s : State) (op : OpCode) (addr operand : Word) (bus : BusOut) :
    During s (wbFlight s operand 0) 1 (requestRegs s op addr bus)
      (((s.tick.advanceCi.launch s.edge operand).request op addr bus).enter .requestAsserted) :=
  ⟨rfl, rfl, rfl, rfl, rfl, (Elapsed.zero s).passed ⟨rfl, rfl, rfl, rfl⟩⟩

/-- An edge of the rise wait is the rise wait's step on the sample of its edge. -/
theorem During.step_rise (hl : s.Live) (h : During s f e ((requestRegs s op addr bus).waiting .awaitAckRise n) w)
    (hp : (s.sampleAt e).por = false) : step w = .next (ackRiseStep (s.sampleAt e) w) := by
  rw [← h.sample]
  refine step_ackRise (by rw [h.sample, hp]) (by rw [State.Live, h.regs]; exact hl) ?_
  rw [h.regs]
  by_cases hn : n = 0
  · exact .inl (if_pos hn)
  · exact .inr (if_neg hn)

/-- An edge of the fall wait is the fall wait's step on the sample of its edge. -/
theorem During.step_fall {dat : Word} (hl : s.Live)
    (h : During s f e ((risenRegs s op addr bus dat).waiting .awaitAckFall n) w)
    (hp : (s.sampleAt e).por = false) : step w = .next (ackFallStep (s.sampleAt e) w) := by
  rw [← h.sample]
  refine step_ackFall (by rw [h.sample, hp]) (by rw [State.Live, h.regs]; exact hl) ?_
  rw [h.regs]
  exact ite_self _

/-- Whether the count of a waiting block is at the timeout. -/
theorem During.atLimit_waiting {r : Regs} {c : Ctl} (h : During s f e (r.waiting c n) w)
    (hn : n < s.params.ackTimeout.val) :
    w.atLimit w.params.ackTimeout = true ↔ n + 1 = s.params.ackTimeout.val := by
  rw [h.elapsed.params, h.atLimit_iff hn]

/-- The rise wait while the acknowledge stays low. -/
theorem During.riseWait (hl : s.Live) (h : During s f 1 (requestRegs s op addr bus) u)
    (hn : n < s.params.ackTimeout.val) (hp : s.PorLow (n + 1))
    (hack : ∀ i, i < n + 1 → (s.sampleAt i).wbAck = false) :
    ∃ w, runEdges n u = .next w ∧
      During s f (1 + n) ((requestRegs s op addr bus).waiting .awaitAckRise n) w := by
  refine h.wait (requestRegs_phaseStart hl) fun m w hm hw => ?_
  have hlim := hw.atLimit_waiting (by omega)
  rw [hw.step_rise hl (hp _ (by omega)), ackRiseStep, if_neg (by simp [hack (1 + m) (by omega)]),
    if_neg (by rw [hlim]; omega)]

/-- The rise edge, the `k`-th after the accept edge: the word on the lines is captured by WB_READ. -/
theorem During.rise (hl : s.Live) (h : During s (wbFlight s operand 0) 1 (requestRegs s op addr bus) u)
    (hk : 1 ≤ k) (hkN : k ≤ s.params.ackTimeout.val) (hp : s.PorLow (k + 1))
    (hlow : ∀ i, i < k → (s.sampleAt i).wbAck = false) (hhigh : (s.sampleAt k).wbAck = true) :
    ∃ v, runEdges k u = .next v ∧
      During s (wbFlight s operand k) (k + 1) (risenRegs s op addr bus (s.sampleAt k).wbDatOut) v := by
  have hmax := s.params.ackTimeout.property.2
  have hsplit : k = k - 1 + 1 := by omega
  obtain ⟨w, hrun, hw⟩ := h.riseWait hl (n := k - 1) (by omega) (fun i hi => hp i (by omega))
    fun i hi => hlow i (by omega)
  have hstep := hw.step_rise hl (hp _ (by omega))
  rw [show 1 + (k - 1) = k by omega] at hw hstep
  have hrunk : runEdges k u = .next (ackRiseStep (s.sampleAt k) w) := by
    rw [hsplit, runEdges_add hrun, runEdges_succ hstep]
    exact congrArg (fun n => Host.Outcome.next (ackRiseStep (s.sampleAt n) w)) hsplit
  refine ⟨_, hrunk, ?_⟩
  rw [ackRiseStep, if_pos hhigh, State.capture_eq]
  refine ⟨?_, hw.ci, ?_, hw.history, hw.responses, hw.elapsed.passed ⟨rfl, rfl, rfl, rfl⟩⟩
  · simp [hw.regs, Regs.waiting, risenRegs, requestRegs, Regs.noRsp]
  · have hcnt : w.regs.cnt.toNat + 1 = k := by
      rw [hw.regs, Regs.waiting_cnt_toNat (by omega), ← hsplit]
    simp [hw.flight, hcnt, wbFlight]

/-- The fall wait while the acknowledge stays high. -/
theorem During.fallWait {dat : Word} (hl : s.Live) (h : During s f e (risenRegs s op addr bus dat) v)
    (hn : n < s.params.ackTimeout.val) (hp : s.PorLow (e + n))
    (hack : ∀ i, e ≤ i → i < e + n → (s.sampleAt i).wbAck = true) :
    ∃ w, runEdges n v = .next w ∧
      During s f (e + n) ((risenRegs s op addr bus dat).waiting .awaitAckFall n) w := by
  refine h.wait (risenRegs_phaseStart hl) fun m w hm hw => ?_
  have hlim := hw.atLimit_waiting (by omega)
  rw [hw.step_fall hl (hp _ (by omega)), ackFallStep,
    if_neg (by simp [hack (e + m) (by omega) (by omega)]), if_neg (by rw [hlim]; omega)]

/-- A timeout of a wait: every register after the edge that raises it, and the record. -/
theorem During.timeout {r : Regs} {c : Ctl} {code : ErrCode} (hr : r.PhaseStart)
    (h : During s f e (r.waiting c (s.params.ackTimeout.val - 1)) w)
    (ht : t = w.tick.raise code w.regs.txnOp w.regs.txnAddr w.phaseCount) :
    t.regs = { r with
      ctl := .halted, cnt := BitVec.ofNat 32 (s.params.ackTimeout.val - 1)
      err := { code := code, op := r.txnOp, addr := r.txnAddr,
               elapsed := BitVec.ofNat 32 s.params.ackTimeout.val } } ∧
    t.history = s.history ++ [.error r.txnOp r.txnAddr code (BitVec.ofNat 32 s.params.ackTimeout.val)] ∧
    t.responses = s.responses := by
  have hrsp : ({ r.rsp with valid := false } : Rsp) = r.rsp := by rw [← hr.valid]
  have hcount : BitVec.ofNat 32 (s.params.ackTimeout.val - 1) + 1#32 =
      BitVec.ofNat 32 s.params.ackTimeout.val := by
    have hpos := s.params.ackTimeout.property.1
    rw [← BitVec.ofNat_add, Nat.sub_add_cancel hpos]
  subst ht
  refine ⟨?_, ?_, h.responses⟩
  · simp [State.phaseCount, h.regs, Regs.waiting, hrsp, hcount]
  · simp [State.phaseCount, h.regs, h.history, Regs.waiting, hcount]

/-- A WB command accepted with the acknowledge low is a request. -/
theorem exec_eq_request (ha : s.Accepting) (hr : s.regs.resetDone = true) (hx : s.sample.wbAck = false)
    (hi : onAccept (.instr i) s.sample s = acceptWb op addr operand bus s.sample s) : exec i s =
      .next (((s.tick.advanceCi.launch s.edge operand).request op addr bus).enter .requestAsserted) := by
  rw [exec_of_accepting i ha, hi, acceptWb_of_request hr hx]

/-- The acknowledge rises at the `k`-th edge after the accept edge `s`, within the bound, and stays high up to the
edge `stop`, `por` low up to there. -/
structure RiseAt (s : State) (k stop : Nat) : Prop where
  pos : 1 ≤ k
  le : k ≤ s.params.ackTimeout.val
  por : s.PorLow stop
  low : ∀ i, i < k → (s.sampleAt i).wbAck = false
  high : ∀ i, k ≤ i → i < stop → (s.sampleAt i).wbAck = true

/-- A WB command whose request is acknowledged waits `n` edges for the release. -/
theorem RiseAt.fallWait {stop : Nat} (h : RiseAt s k stop) (hl : s.Live)
    (hu : During s (wbFlight s operand 0) 1 (requestRegs s op addr bus) u) (hn : n < s.params.ackTimeout.val)
    (hstop : k + 1 + n ≤ stop) : ∃ w, runEdges (k + n) u = .next w ∧
      During s (wbFlight s operand k) (k + 1 + n)
        ((risenRegs s op addr bus (s.sampleAt k).wbDatOut).waiting .awaitAckFall n) w := by
  obtain ⟨v, hv, hdv⟩ := hu.rise hl h.pos h.le (fun i hi => h.por i (by omega)) h.low
    (h.high k le_rfl (by omega))
  obtain ⟨w, hrun, hw⟩ := hdv.fallWait hl hn (fun i hi => h.por i (by omega))
    fun i hi hi' => h.high i (by omega) (by omega)
  exact ⟨w, (runEdges_add hv).trans hrun, hw⟩

/-! ### Completion (`41_wishbone.md` R131) -/

theorem wbComplete_edge {r : Regs} : (wbComplete r j s).edge = s.edge := by
  unfold wbComplete; split_ifs <;> rfl

theorem wbComplete_ci {r : Regs} : (wbComplete r j s).ci = s.ci := by
  unfold wbComplete; split_ifs <;> rfl

theorem wbComplete_flight {r : Regs} : (wbComplete r j s).flight = none := rfl

theorem wbComplete_history {r : Regs} :
    (wbComplete r j s).history = s.history ++ (s.flight.map (busEvent r j)).toList := by
  unfold wbComplete; split_ifs <;> rfl

theorem wbComplete_responses {r : Regs} : (wbComplete r j s).responses =
    s.responses ++ [if r.txnOp = opWbRead then (opWbRead, r.rdata) else (opWbWrite, 0#32)] := by
  unfold wbComplete; split_ifs <;> rfl

/-- A WB command completes at its `j`-th fall-wait edge, `k + j` edges after its accept edge. -/
theorem RiseAt.completes (h : RiseAt s k (k + j)) (hl : s.Live)
    (hu : During s (wbFlight s operand 0) 1 (requestRegs s op addr bus) u) (hj : 1 ≤ j)
    (hjN : j ≤ s.params.ackTimeout.val) (hp : (s.sampleAt (k + j)).por = false)
    (hfall : (s.sampleAt (k + j)).wbAck = false) :
    ∃ w, runEdges (k + j) u = .next (wbComplete w.regs j w.tick) ∧
      During s (wbFlight s operand k) (k + j)
        ((risenRegs s op addr bus (s.sampleAt k).wbDatOut).waiting .awaitAckFall (j - 1)) w := by
  have hmax := s.params.ackTimeout.property.2
  obtain ⟨w, hrun, hw⟩ := h.fallWait hl hu (n := j - 1) (by omega) (by omega)
  rw [show k + 1 + (j - 1) = k + j by omega] at hw
  have hcnt : w.regs.cnt.toNat + 1 = j := by
    rw [hw.regs, Regs.waiting_cnt_toNat (by omega), Nat.sub_add_cancel hj]
  have hstep := hw.step_fall hl hp
  rw [ackFallStep, if_pos (by simp [hfall]), hcnt] at hstep
  refine ⟨w, ?_, hw⟩
  rw [show k + j = k + (j - 1) + 1 by omega, runEdges_add hrun, runEdges_succ hstep]
  rfl

/-! ### The two timeouts (`41_wishbone.md` R128, R132) -/

/-- No acknowledge: AckTimeout is raised at the `N`-th edge after the accept edge, and nothing before it. -/
theorem During.ackTimeout (hl : s.Live) (h : During s f 1 (requestRegs s op addr bus) u)
    (hp : s.PorLow (s.params.ackTimeout.val + 1))
    (hack : ∀ i, i < s.params.ackTimeout.val + 1 → (s.sampleAt i).wbAck = false) :
    (∀ n, n < s.params.ackTimeout.val → ∃ t, runEdges n u = .next t ∧ t.regs.halted = false) ∧
    ∃ t, runEdges s.params.ackTimeout.val u = .next t ∧ t.regs = { requestRegs s op addr bus with
      ctl := .halted, cnt := BitVec.ofNat 32 (s.params.ackTimeout.val - 1)
      err := { code := .ackTimeout, op := op, addr := addr,
               elapsed := BitVec.ofNat 32 s.params.ackTimeout.val } } := by
  obtain ⟨hpos, hmax⟩ := s.params.ackTimeout.property
  constructor
  · intro n hn
    obtain ⟨w, hrun, hw⟩ := h.riseWait hl hn (fun i hi => hp i (by omega)) fun i hi => hack i (by omega)
    refine ⟨w, hrun, ?_⟩
    rw [hw.regs]
    by_cases hz : n = 0 <;> simp [Regs.halted, Regs.waiting, requestRegs, hz]
  · obtain ⟨w, hrun, hw⟩ := h.riseWait hl (n := s.params.ackTimeout.val - 1) (by omega)
      (fun i hi => hp i (by omega)) fun i hi => hack i (by omega)
    have hlim := (hw.atLimit_waiting (by omega)).2 (Nat.sub_add_cancel hpos)
    have hstep := hw.step_rise hl (hp _ (by omega))
    rw [ackRiseStep, if_neg (by simp [hack _ (show 1 + (s.params.ackTimeout.val - 1) < _ by omega)]),
      if_pos hlim] at hstep
    obtain ⟨hregs, -, -⟩ := hw.timeout (requestRegs_phaseStart hl) rfl
    refine ⟨_, ?_, hregs⟩
    rw [← Nat.sub_add_cancel hpos, runEdges_add hrun, runEdges_succ hstep]
    rfl

/-- An acknowledge that is not released: AckNotReleased is raised at the `N`-th edge after the rise edge, and
nothing before it. -/
theorem RiseAt.ackNotReleased (h : RiseAt s k (k + s.params.ackTimeout.val + 1)) (hl : s.Live)
    (hu : During s (wbFlight s operand 0) 1 (requestRegs s op addr bus) u) :
    (∀ n, n < k + s.params.ackTimeout.val → ∃ v, runEdges n u = .next v ∧ v.regs.halted = false) ∧
    ∃ t, runEdges (k + s.params.ackTimeout.val) u = .next t ∧
      t.regs = { risenRegs s op addr bus (s.sampleAt k).wbDatOut with
        ctl := .halted, cnt := BitVec.ofNat 32 (s.params.ackTimeout.val - 1)
        err := { code := .ackNotReleased, op := op, addr := addr,
                 elapsed := BitVec.ofNat 32 s.params.ackTimeout.val } } ∧
      t.history = s.history ++ [.error op addr .ackNotReleased (BitVec.ofNat 32 s.params.ackTimeout.val)] ∧
      t.responses = s.responses := by
  obtain ⟨hpos, hmax⟩ := s.params.ackTimeout.property
  constructor
  · intro n hn
    by_cases hnk : n < k
    · obtain ⟨w, hrun, hw⟩ := hu.riseWait hl (n := n) (by have := h.le; omega)
        (fun i hi => h.por i (by omega)) fun i hi => h.low i (by omega)
      refine ⟨w, hrun, ?_⟩
      rw [hw.regs]
      by_cases hz : n = 0 <;> simp [Regs.halted, Regs.waiting, requestRegs, hz]
    · obtain ⟨w, hrun, hw⟩ := h.fallWait hl hu (n := n - k) (by omega) (by omega)
      rw [show k + (n - k) = n by omega] at hrun
      refine ⟨w, hrun, ?_⟩
      rw [hw.regs]
      simp [Regs.halted, Regs.waiting, risenRegs]
  · obtain ⟨w, hrun, hw⟩ := h.fallWait hl hu (n := s.params.ackTimeout.val - 1) (by omega) (by omega)
    have hlim := (hw.atLimit_waiting (by omega)).2 (Nat.sub_add_cancel hpos)
    have hstep := hw.step_fall hl (h.por _ (by omega))
    rw [ackFallStep, if_neg (by simp [h.high (k + 1 + (s.params.ackTimeout.val - 1)) (by omega) (by omega)]),
      if_pos hlim] at hstep
    refine ⟨_, ?_, hw.timeout (risenRegs_phaseStart hl) rfl⟩
    rw [show k + s.params.ackTimeout.val = k + (s.params.ackTimeout.val - 1) + 1 by omega, runEdges_add hrun,
      runEdges_succ hstep]
    rfl

end WishboneRun

/-- Settles O25: the request, its `k`-th edge with the rise, `j` edges of the fall wait. -/
theorem wbWriteCompletes : Obligations.WbWriteCompletes := by
  intro s addr data k j ha hr hk hkN hj hjN hp hlow hhigh hfall
  obtain ⟨-, -, hl⟩ := id ha
  have hrise : RiseAt s k (k + j) := ⟨hk, hkN, fun i hi => hp i (by omega), hlow, hhigh⟩
  obtain ⟨w, hrun, hw⟩ := hrise.completes hl
    (during_request s opWbWrite addr data (s.regs.bus.driveWrite addr data)) hj hjN (hp _ (by omega)) hfall
  refine ⟨_, _, exec_eq_request ha hr (hlow 0 hk) rfl, hrun, ?_, ?_, ?_, wbComplete_flight, ?_, ?_⟩
  · simp [wbComplete_regs, hw.regs, Regs.waiting, risenRegs, requestRegs, Regs.noRsp, opWbWrite, opWbRead]
  · simp [wbComplete_edge, hw.elapsed.edge, Nat.add_assoc]
  · simp [wbComplete_ci, hw.ci]
  · simp [wbComplete_history, hw.history, hw.flight, hw.regs, busEvent, wbFlight, Regs.waiting, risenRegs,
      requestRegs, opWbWrite, opWbRead]
  · simp [wbComplete_responses, hw.responses, hw.regs, Regs.waiting, risenRegs, requestRegs, opWbWrite, opWbRead]

/-- Settles O26: as for WB_WRITE, the word captured at the rise edge. -/
theorem wbReadCompletes : Obligations.WbReadCompletes := by
  intro s addr k j ha hr hk hkN hj hjN hp hlow hhigh hfall
  obtain ⟨-, -, hl⟩ := id ha
  have hrise : RiseAt s k (k + j) := ⟨hk, hkN, fun i hi => hp i (by omega), hlow, hhigh⟩
  obtain ⟨w, hrun, hw⟩ := hrise.completes hl
    (during_request s opWbRead addr 0#32 (s.regs.bus.driveRead addr)) hj hjN (hp _ (by omega)) hfall
  refine ⟨_, _, exec_eq_request ha hr (hlow 0 hk) rfl, hrun, ?_, ?_, ?_, wbComplete_flight, ?_, ?_⟩
  · simp [wbComplete_regs, hw.regs, Regs.waiting, risenRegs, requestRegs, Regs.noRsp, opWbRead]
  · simp [wbComplete_edge, hw.elapsed.edge, Nat.add_assoc]
  · simp [wbComplete_ci, hw.ci]
  · simp [wbComplete_history, hw.history, hw.flight, hw.regs, busEvent, wbFlight, Regs.waiting, risenRegs,
      requestRegs, opWbRead]
  · simp [wbComplete_responses, hw.responses, hw.regs, Regs.waiting, risenRegs, requestRegs, opWbRead]

/-- Settles O27: waiting changes the count and `ctl` only. -/
theorem wbWriteRequestHeldUntilAcknowledged : Obligations.WbWriteRequestHeldUntilAcknowledged := by
  intro s addr data n ha hr hn hp hlow
  obtain ⟨-, -, hl⟩ := id ha
  obtain ⟨w, hrun, hw⟩ :=
    (during_request s opWbWrite addr data (s.regs.bus.driveWrite addr data)).riseWait hl hn hp hlow
  refine ⟨_, w, exec_eq_request ha hr (hlow 0 n.succ_pos) rfl, hrun, by rw [hw.regs]; rfl, ?_⟩
  rw [hw.regs]
  by_cases hz : n = 0 <;> simp [Regs.busy, Regs.waiting, requestRegs, hz]

/-- Settles O28: the rise wait of both requests runs into its timeout. -/
theorem noAcknowledgeRaisesAckTimeoutAtN : Obligations.NoAcknowledgeRaisesAckTimeoutAtN := by
  intro s addr data ha hr hp hack
  obtain ⟨-, -, hl⟩ := id ha
  have hlow := hack 0 (Nat.succ_pos _)
  exact ⟨⟨_, exec_eq_request ha hr hlow rfl, (during_request s _ _ _ _).ackTimeout hl hp hack⟩,
    ⟨_, exec_eq_request ha hr hlow rfl, (during_request s _ _ _ _).ackTimeout hl hp hack⟩⟩

/-- Settles O29: the fall wait of both requests runs into its timeout. -/
theorem heldAcknowledgeRaisesAckNotReleasedAtN : Obligations.HeldAcknowledgeRaisesAckNotReleasedAtN := by
  intro s addr data k ha hr hk hkN hp hlow hhigh
  obtain ⟨-, -, hl⟩ := id ha
  have hrise : RiseAt s k (k + s.params.ackTimeout.val + 1) := ⟨hk, hkN, hp, hlow, hhigh⟩
  constructor
  · obtain ⟨hbefore, t, hrun, hregs, hhist, hresp⟩ :=
      hrise.ackNotReleased hl (during_request s opWbWrite addr data (s.regs.bus.driveWrite addr data))
    exact ⟨_, t, exec_eq_request ha hr (hlow 0 hk) rfl, hbefore, hrun, hregs, hhist, hresp⟩
  · obtain ⟨hbefore, t, hrun, hregs, hhist, hresp⟩ :=
      hrise.ackNotReleased hl (during_request s opWbRead addr 0#32 (s.regs.bus.driveRead addr))
    exact ⟨_, t, exec_eq_request ha hr (hlow 0 hk) rfl, hbefore, hrun, hregs, hhist, hresp⟩

end Sys2Proof.Machine

namespace Sys2Proof.Machine

open Sys2Proof

section SerialRun

variable {s u v w : State} {f : Flight} {e b : Nat} {r : Regs} {value : Half}

/-! ### The whole SPI_EXCHANGE (`42_serial.md` R152 to R161) -/

/-- The bits received before bit `b`: those on `spi_miso` at the sample edges `2S + 2bS` (R157). -/
def received (s : State) : Nat → Half
  | 0     => 0#16
  | b + 1 => shiftIn (received s b) (s.sampleAt (2 * s.params.settle.val + 2 * (b * s.params.settle.val))).spiMiso

theorem shiftIn_getLsbD_zero (acc : Half) (x : Bool) : (shiftIn acc x).getLsbD 0 = x := by
  cases x <;> simp [shiftIn, zext16]

theorem shiftIn_getLsbD_succ {i : Nat} (acc : Half) (x : Bool) (hi : i + 1 < 16) :
    (shiftIn acc x).getLsbD (i + 1) = acc.getLsbD i := by
  have hzext : (zext16 x).getLsbD (i + 1) = false := by
    cases x <;> simp [zext16]
  rw [shiftIn, BitVec.getLsbD_or, BitVec.getLsbD_shiftLeft, hzext, Nat.add_sub_cancel]
  simp only [hi, Nat.not_lt.2 (Nat.le_add_left 1 i), decide_true, decide_false, Bool.not_false, Bool.true_and,
    Bool.or_false]

/-- The bit received `i` bits before the last. -/
theorem received_getLsbD (s : State) : ∀ {i b : Nat}, i < 16 → (received s (b + i + 1)).getLsbD i =
    (s.sampleAt (2 * s.params.settle.val + 2 * (b * s.params.settle.val))).spiMiso := by
  intro i
  induction i with
  | zero => intro b _; exact shiftIn_getLsbD_zero _ _
  | succ i ih =>
    intro b hi
    rw [received, shiftIn_getLsbD_succ _ _ hi]
    exact ih (by omega)

/-- The command in progress from an SPI_EXCHANGE's accept edge on. -/
abbrev spiFlight (s : State) (value : Half) : Flight :=
  { acceptEdge := s.edge, operand := zext32 value, riseLen := 0 }

/-- The registers of an exchange in which `b` bits are done, at the first edge of a phase. -/
def spiRegs (s : State) (value : Half) (b : Nat) (c : Ctl) (link : Link) : Regs :=
  { s.regs.noRsp with
    ctl := c, cnt := 0#32, bitcnt := BitVec.ofNat 5 (16 - b), shreg := value <<< b, rxacc := received s b
    link := link }

/-- The levels while bit `b` is sent, with the serial clock high or low (R157, R159). -/
def bitLink (value : Half) (b : Nat) (sclk : Bool) : Link :=
  { csN := false, sclk := sclk, mosi := value.getLsbD (15 - b) }

theorem spiRegs_phaseStart {c : Ctl} {l : Link} (hl : s.Live) : (spiRegs s value b c l).PhaseStart :=
  ⟨rfl, rfl, hl⟩

theorem during_acceptSpi (s : State) (value : Half) : During s (spiFlight s value) 1
    (spiRegs s value 0 .spiCsSetup { s.regs.link with csN := false }) (acceptSpi value s) where
  regs := by simp [acceptSpi, spiRegs, received, Regs.noRsp]
  ci := rfl
  flight := rfl
  history := rfl
  responses := rfl
  elapsed := (Elapsed.zero s).passed ⟨rfl, rfl, rfl, rfl⟩

/-- The bit that a shift register holding the value shifted by `b` drives. -/
theorem topBit_shiftLeft (value : Half) (hb : b < 16) : topBit (value <<< b) = value.getLsbD (15 - b) := by
  have hb' : ¬ 15 < b := by omega
  rw [topBit, BitVec.getLsbD_shiftLeft]
  simp only [hb', decide_false, Bool.not_false, Bool.and_true, Bool.true_and, Nat.reduceLT, decide_true]

/-- A phase of an exchange: `SETTLE_CYCLES` edges, then its end. -/
theorem During.spiPhase {c : Ctl} {finish : State → State → State} {r' : Regs}
    (hstep : ∀ w : State, w.sample.por = false → w.Live → w.regs.ctl = c →
      step w = .next (w.fixedPhase w.params.settle (finish w)))
    (h : During s f e r v) (hc : r.ctl = c) (hr : r.PhaseStart) (hp : s.PorLow (e + s.params.settle.val))
    (hend : ∀ w, w.regs = r.waiting c (s.params.settle.val - 1) →
      w.sample = s.sampleAt (e + (s.params.settle.val - 1)) →
      (finish w w.tick).regs = r' ∧ ((finish w w.tick).ci = w.ci ∧ (finish w w.tick).flight = w.flight ∧
        (finish w w.tick).history = w.history ∧ (finish w w.tick).responses = w.responses) ∧
      Passed w (finish w w.tick)) :
    ∃ t, runEdges s.params.settle.val v = .next t ∧ During s f (e + s.params.settle.val) r' t := by
  obtain ⟨hpos, -⟩ := s.params.settle.property
  obtain ⟨w, hw, hrun⟩ := h.fixedPhase (lim := Params.settle) hstep hc hr fun i hi => hp _ (by omega)
  obtain ⟨hregs, ⟨hci, hflight, hhist, hresp⟩, hpass⟩ := hend w hw.regs hw.sample
  refine ⟨_, hrun, hregs, hci.trans hw.ci, hflight.trans hw.flight, hhist.trans hw.history,
    hresp.trans hw.responses, ?_⟩
  rw [show e + s.params.settle.val = e + (s.params.settle.val - 1) + 1 by omega]
  exact hw.elapsed.passed hpass

/-- Chip-select set-up ends with the first bit driven. -/
theorem During.spiCsSetup {l : Link} (hl : s.Live) (hcs : l.csN = false) (hp : s.PorLow (1 + s.params.settle.val))
    (h : During s f 1 (spiRegs s value 0 .spiCsSetup l) v) :
    ∃ t, runEdges s.params.settle.val v = .next t ∧
      During s f (1 + s.params.settle.val) (spiRegs s value 0 .spiBitHigh (bitLink value 0 true)) t :=
  h.spiPhase (fun _ hp hl hc => step_spiCsSetup hp hl hc) rfl (spiRegs_phaseStart hl) hp fun w hw _ =>
    ⟨by simp [hw, Regs.waiting, spiRegs, bitLink, Regs.noRsp, hcs, topBit], ⟨rfl, rfl, rfl, rfl⟩,
      ⟨rfl, rfl, rfl, rfl⟩⟩

/-- The high half of bit `b` ends at its sample edge. -/
theorem During.spiBitHigh (hl : s.Live) (hb : b < 16) (hp : s.PorLow (e + s.params.settle.val))
    (he : e + (s.params.settle.val - 1) = 2 * s.params.settle.val + 2 * (b * s.params.settle.val))
    (h : During s f e (spiRegs s value b .spiBitHigh (bitLink value b true)) v) :
    ∃ t, runEdges s.params.settle.val v = .next t ∧
      During s f (e + s.params.settle.val) (spiRegs s value (b + 1) .spiBitLow (bitLink value b false)) t :=
  h.spiPhase (fun _ hp hl hc => step_spiBitHigh hp hl hc) rfl (spiRegs_phaseStart hl) hp fun w hw hx => by
    have hleft : BitVec.ofNat 5 (16 - b) - 1#5 = BitVec.ofNat 5 (16 - (b + 1)) := by
      rw [BitVec.ofNat_sub_ofNat_of_le _ _ (by decide) (by omega), Nat.sub_sub]
    rw [he] at hx
    refine ⟨?_, ⟨rfl, rfl, rfl, rfl⟩, ⟨rfl, rfl, rfl, rfl⟩⟩
    simp [hw, hx, hleft, Regs.waiting, spiRegs, bitLink, Regs.noRsp, received, BitVec.shiftLeft_add]

/-- The low half of bit `b` ends with the next bit driven. -/
theorem During.spiBitLow (hl : s.Live) (hb : b + 1 < 16) (hp : s.PorLow (e + s.params.settle.val))
    (h : During s f e (spiRegs s value (b + 1) .spiBitLow (bitLink value b false)) v) :
    ∃ t, runEdges s.params.settle.val v = .next t ∧
      During s f (e + s.params.settle.val) (spiRegs s value (b + 1) .spiBitHigh (bitLink value (b + 1) true)) t :=
  h.spiPhase (fun _ hp hl hc => step_spiBitLow hp hl hc) rfl (spiRegs_phaseStart hl) hp fun w hw hx => by
    have hmore : 0 < w.regs.bitcnt.toNat := by
      simp [hw, Regs.waiting, spiRegs]
      omega
    simp only [if_pos hmore]
    refine ⟨?_, ⟨rfl, rfl, rfl, rfl⟩, ⟨rfl, rfl, rfl, rfl⟩⟩
    simp [hw, Regs.waiting, spiRegs, bitLink, Regs.noRsp, topBit_shiftLeft value hb]

/-- The low half of the last bit ends with the tail entered. -/
theorem During.spiLastBitLow (hl : s.Live) (hp : s.PorLow (e + s.params.settle.val))
    (h : During s f e (spiRegs s value 16 .spiBitLow (bitLink value 15 false)) v) :
    ∃ t, runEdges s.params.settle.val v = .next t ∧
      During s f (e + s.params.settle.val) (spiRegs s value 16 .spiTail (bitLink value 15 false)) t :=
  h.spiPhase (fun _ hp hl hc => step_spiBitLow hp hl hc) rfl (spiRegs_phaseStart hl) hp fun w hw hx => by
    have hnone : ¬ 0 < w.regs.bitcnt.toNat := by simp [hw, Regs.waiting, spiRegs]
    simp only [if_neg hnone]
    refine ⟨?_, ⟨rfl, rfl, rfl, rfl⟩, ⟨rfl, rfl, rfl, rfl⟩⟩
    simp [hw, Regs.waiting, spiRegs, bitLink, Regs.noRsp]

/-- The first edge of bit `b`'s high half, `S + 2bS` edges after the accept edge (R157). -/
theorem During.spiBitStart (hl : s.Live)
    (h : During s f 1 (spiRegs s value 0 .spiCsSetup { s.regs.link with csN := false }) u) : ∀ {b : Nat}, b < 16 →
    s.PorLow (1 + s.params.settle.val + 2 * (b * s.params.settle.val)) →
    ∃ v, runEdges (s.params.settle.val + 2 * (b * s.params.settle.val)) u = .next v ∧
      During s f (1 + s.params.settle.val + 2 * (b * s.params.settle.val))
        (spiRegs s value b .spiBitHigh (bitLink value b true)) v := by
  obtain ⟨hpos, -⟩ := s.params.settle.property
  intro b
  induction b with
  | zero =>
    intro _ hp
    simpa using h.spiCsSetup hl rfl (by simpa using hp)
  | succ b ih =>
    intro hb hp
    have hmul : (b + 1) * s.params.settle.val = b * s.params.settle.val + s.params.settle.val := Nat.succ_mul _ _
    rw [hmul] at hp ⊢
    obtain ⟨v, hv, hdv⟩ := ih (by omega) fun i hi => hp i (by omega)
    obtain ⟨w, hw, hdw⟩ := hdv.spiBitHigh hl (by omega) (fun i hi => hp i (by omega)) (by omega)
    obtain ⟨t, ht, hdt⟩ := hdw.spiBitLow hl hb fun i hi => hp i (by omega)
    refine ⟨t, ?_, ?_⟩
    · rw [show s.params.settle.val + 2 * (b * s.params.settle.val + s.params.settle.val) =
        s.params.settle.val + 2 * (b * s.params.settle.val) + (s.params.settle.val + s.params.settle.val) by omega,
        runEdges_add hv, runEdges_add hw, ht]
    · rw [show 1 + s.params.settle.val + 2 * (b * s.params.settle.val + s.params.settle.val) =
        1 + s.params.settle.val + 2 * (b * s.params.settle.val) + s.params.settle.val +
          s.params.settle.val by omega]
      exact hdt

/-- The first edge of the tail, `33 S` edges after the accept edge. -/
theorem During.spiTailStart (hl : s.Live) (hp : s.PorLow (1 + 33 * s.params.settle.val))
    (h : During s f 1 (spiRegs s value 0 .spiCsSetup { s.regs.link with csN := false }) u) :
    ∃ v, runEdges (33 * s.params.settle.val) u = .next v ∧
      During s f (1 + 33 * s.params.settle.val) (spiRegs s value 16 .spiTail (bitLink value 15 false)) v := by
  obtain ⟨hpos, -⟩ := s.params.settle.property
  obtain ⟨v, hv, hdv⟩ := h.spiBitStart hl (b := 15) (by omega) fun i hi => hp i (by omega)
  obtain ⟨w, hw, hdw⟩ := hdv.spiBitHigh hl (by omega) (fun i hi => hp i (by omega)) (by omega)
  obtain ⟨t, ht, hdt⟩ := hdw.spiLastBitLow hl fun i hi => hp i (by omega)
  refine ⟨t, ?_, ?_⟩
  · rw [show 33 * s.params.settle.val =
      s.params.settle.val + 2 * (15 * s.params.settle.val) + (s.params.settle.val + s.params.settle.val) by omega,
      runEdges_add hv, runEdges_add hw, ht]
  · rw [show 1 + 33 * s.params.settle.val = 1 + s.params.settle.val + 2 * (15 * s.params.settle.val) +
      s.params.settle.val + s.params.settle.val by omega]
    exact hdt

end SerialRun

/-- Settles O35: set-up, 16 bits and the tail; the bits are those of `received`. -/
theorem spiExchangeCompletesWithReceivedBits : Obligations.SpiExchangeCompletesWithReceivedBits := by
  intro s value ha hp
  obtain ⟨-, -, hl⟩ := id ha
  obtain ⟨hpos, -⟩ := s.params.settle.property
  obtain ⟨v, hv, hdv⟩ := (during_acceptSpi s value).spiTailStart hl fun i hi => hp i (by omega)
  obtain ⟨w, hw, hrun⟩ := hdv.fixedPhase (lim := Params.settle)
    (fun _ hp hl hc => step_spiTail hp hl hc) rfl (spiRegs_phaseStart hl) fun i hi => hp _ (by omega)
  rw [show 34 * s.params.settle.val = 33 * s.params.settle.val + s.params.settle.val by omega]
  refine ⟨_, _, received s 16, exec_of_accepting (.spiExchange value) ha, (runEdges_add hv).trans hrun,
    fun b hb => ?_, ?_, ?_, hw.ci, rfl, ?_, ?_⟩
  · rw [Nat.mul_assoc, ← received_getLsbD s (i := 15 - b) (by omega), show b + (15 - b) + 1 = 16 by omega]
  · simp [hw.regs, Regs.waiting, spiRegs, bitLink, Regs.noRsp, zext32, opSpiExchange]
  · simp [hw.elapsed.edge]
    omega
  · simp [hw.flight, hw.history, hw.regs, Regs.waiting, spiRegs, zext32]
  · simp [hw.responses, hw.regs, Regs.waiting, spiRegs, zext32, opSpiExchange]

/-- Settles O36: the sample edge of bit `b` is the last of its high half. -/
theorem spiBitSentAtItsSampleEdge : Obligations.SpiBitSentAtItsSampleEdge := by
  intro s value b ha hb hp
  obtain ⟨-, -, hl⟩ := id ha
  obtain ⟨hpos, hmax⟩ := s.params.settle.property
  rw [Nat.mul_assoc] at hp ⊢
  obtain ⟨v, hv, hdv⟩ := (during_acceptSpi s value).spiBitStart hl hb fun i hi => hp i (by omega)
  obtain ⟨w, hrun, hw⟩ := hdv.fixedWait (lim := Params.settle) (n := s.params.settle.val - 1)
    (fun _ hp hl hc => step_spiBitHigh hp hl hc) rfl (spiRegs_phaseStart hl) (by omega) fun i hi => hp _ (by omega)
  refine ⟨_, w, exec_of_accepting (.spiExchange value) ha, ?_, by rw [hw.regs]; rfl, ?_, ?_⟩
  · rw [show 2 * s.params.settle.val + 2 * (b * s.params.settle.val) - 1 =
      s.params.settle.val + 2 * (b * s.params.settle.val) + (s.params.settle.val - 1) by omega,
      runEdges_add hv, hrun]
  · simp [hw.regs, Regs.waiting, spiRegs]
  · rw [hw.regs, Regs.waiting_cnt_toNat (by omega), Nat.sub_add_cancel hpos]

end Sys2Proof.Machine
